-- ==== Sys2Proof/Word.lean ====
section
/-! DEFINITION. The machine's words: the 32-bit operand, result and registers; the 8-bit table entry and
table address; the 34-bit command word. -/

namespace Sys2Proof

/-- An operand, a result, a working value or a mask: 32 bits, unsigned (R2, R6 `XLEN`). -/
abbrev Word := BitVec 32

/-- A table entry or a table address: 8 bits (R6 `LUT_WIDTH`, R33). -/
abbrev Byte := BitVec 8

/-- The strategy select field: 2 bits (R6 `SEL_WIDTH`). -/
abbrev Select := BitVec 2

/-- A command word `sel ++ value`: 34 bits (R6 `CMD_WIDTH`, R48). -/
abbrev CommandWord := BitVec 34

end Sys2Proof
end

