-- ==== Sys2Proof/Syntax.lean ====
section
/-! DEFINITION. The commands (R2, R49): one constructor per row of the opcode table. A command carries its one
operand as an immediate; there is no other field (R48, R50). -/

namespace Sys2Proof

/-- A command of `popcount_unit`. -/
inductive Instr where
  /-- NAIVE1, the naive bit-scan (R58). -/
  | naive1 (value : Word)
  /-- NAIVE2, the early-exit bit-scan (R61). -/
  | naive2 (value : Word)
  /-- TABLE, the byte-table lookup (R64). -/
  | table (value : Word)
  /-- PARALLEL, the parallel bit-summing reduction (R68). -/
  | parallel (value : Word)
deriving DecidableEq, Repr

end Sys2Proof
end

