-- ==== Sys2Proof/WellFormed.lean ====
section
/-! DEFINITION. Well-formedness. A command given as two plain numbers (the way a host or an assembler line gives it)
must fit the two fields of the format (R48, R55); a command as syntax always does (R52). -/

namespace Sys2Proof

/-- A command as two unbounded numbers, before it is put into the fields of the format. -/
structure RawCommand where
  sel : Nat
  value : Nat
deriving DecidableEq, Repr

/-- The select fits its 2-bit field (R48). -/
def RawCommand.selFits (c : RawCommand) : Bool := decide (c.sel < 4)

/-- The operand is in 0..4294967295 (R48, R55). -/
def RawCommand.valueFits (c : RawCommand) : Bool := decide (c.value < 4294967296)

/-- Both fields fit. -/
def RawCommand.wellFormed (c : RawCommand) : Bool := c.selFits && c.valueFits

/-- The numbers of a command (R49). -/
def Instr.raw : Instr → RawCommand
  | .naive1 v => ⟨0, v.toNat⟩
  | .naive2 v => ⟨1, v.toNat⟩
  | .table v => ⟨2, v.toNat⟩
  | .parallel v => ⟨3, v.toNat⟩

/-- Every command is well formed: all selects are assigned and every operand is legal (R52). -/
def Instr.wellFormed (i : Instr) : Bool := i.raw.wellFormed

/-- A well-formed pair of numbers is a command (R49, R50); any other is none. -/
def RawCommand.toInstr? (c : RawCommand) : Option Instr :=
  if c.wellFormed then
    match c.sel with
    | 0 => some (.naive1 (BitVec.ofNat 32 c.value))
    | 1 => some (.naive2 (BitVec.ofNat 32 c.value))
    | 2 => some (.table (BitVec.ofNat 32 c.value))
    | _ => some (.parallel (BitVec.ofNat 32 c.value))
  else none

end Sys2Proof
end

