-- ==== Sys2Proof/Decode.lean ====
section
/-! DEFINITION. The command word (R48, R49): the decoder, total on every 34-bit word (R53), and the encoder. A number
that is not a 34-bit word is rejected by name; the block has no other way to reject a command (R52). -/

namespace Sys2Proof

/-- The strategy select of a command (R49). -/
def Instr.sel : Instr → Select
  | .naive1 _ => 0#2
  | .naive2 _ => 1#2
  | .table _ => 2#2
  | .parallel _ => 3#2

/-- The operand of a command (R50). -/
def Instr.value : Instr → Word
  | .naive1 v => v
  | .naive2 v => v
  | .table v => v
  | .parallel v => v

/-- The command of a select and an operand (R49). -/
def Instr.ofSel (sel : Select) (value : Word) : Instr :=
  match sel with
  | 0#2 => .naive1 value
  | 1#2 => .naive2 value
  | 2#2 => .table value
  | 3#2 => .parallel value

/-- Bits 33:32 of a command word (R48). -/
def selField (word : CommandWord) : Select := word.extractLsb' 32 2

/-- Bits 31:0 of a command word (R48). -/
def valueField (word : CommandWord) : Word := word.extractLsb' 0 32

/-- Decoding (R53): the operation of the select field on the value field; defined for every word. -/
def decode (word : CommandWord) : Instr := Instr.ofSel (selField word) (valueField word)

/-- Encoding (R53): `sel` in the upper two bits, the operand below it. -/
def encode (i : Instr) : CommandWord := i.sel ++ i.value

/-- Why a number is no command word. -/
inductive DecodeError where
  /-- It has a bit set above bit 33; a command is exactly 34 bits long (R48, R54). -/
  | widerThanCommand
deriving DecidableEq, Repr

/-- Decoding of a number that holds a command word: it must be below 2^34 (R48, R54). -/
def decodeNat (n : Nat) : Except DecodeError Instr :=
  if n < 2 ^ 34 then .ok (decode (BitVec.ofNat 34 n)) else .error .widerThanCommand

/-- The command the decoder reads from a word of the opcode table whose low `nbits` bits are `w` and whose other
bits are 0. The block stores no command; it takes it on 34 wires (R45, R48), so there is no byte order (R40). -/
def decodeTableWord (nbits w : Nat) : Option Instr :=
  match decodeNat (w % 2 ^ nbits) with
  | .ok i => some i
  | .error _ => none

end Sys2Proof
end

