-- ==== Sys2Proof/Machine/Operands.lean ====
section
/-! DEFINITION. The quantities the operations derive from the operand and the iteration index (R51), the five mask
constants (R20), and the two mathematical functions the spec states properties with (R8: `popcount`, `bitlen`). -/

namespace Sys2Proof.Machine

/-- How many of the bits `n - 1 .. 0` of `v` are 1. -/
def onesBelow {width : Nat} (v : BitVec width) : Nat → Nat
  | 0 => 0
  | n + 1 => onesBelow v n + (v.getLsbD n).toNat

/-- `popcount` (R8): how many bits of `v` are 1. Used for the preloaded table and in statements, never by a step. -/
def popcount {width : Nat} (v : BitVec width) : Nat := onesBelow v width

/-- `bitlen` (R8) of the low `n` bits of `v`: 0 where they are all 0, else 1 plus the index of the highest 1. -/
def bitlenBelow {width : Nat} (v : BitVec width) : Nat → Nat
  | 0 => 0
  | n + 1 => if v.getLsbD n then n + 1 else bitlenBelow v n

/-- `bitlen` (R8). -/
def bitlen {width : Nat} (v : BitVec width) : Nat := bitlenBelow v width

/-- Bit `i` of `v` as a 32-bit 0 or 1: `(v >> i) & 1` (R7, R51 a and b). -/
def testedBit (v : Word) (i : Nat) : Word := (v >>> i) &&& 1#32

/-- Lane `j` of `v`: `(v >> (8*j)) & 0xFF` (R39, R51 c). -/
def lane (v : Word) (j : Nat) : Byte := ((v >>> (8 * j)) &&& 0xFF#32).setWidth 8

/-- `MASK[k]` (R20, R38): wired constants, five addresses and no more. -/
def mask : Fin 5 → Word
  | 0 => 0x55555555#32
  | 1 => 0x33333333#32
  | 2 => 0x0F0F0F0F#32
  | 3 => 0x00FF00FF#32
  | 4 => 0x0000FFFF#32

/-- Round `k` of PARALLEL (R51 d, R69): the masked value plus the masked value shifted right by `2^k`. -/
def parallelRound (k : Fin 5) (v : Word) : Word :=
  (v &&& mask k) + ((v >>> (2 ^ k.val)) &&& mask k)

end Sys2Proof.Machine
end

