-- ==== Sys2Proof/Config.lean ====
section
/-! DEFINITION. What is fixed for one machine (the parameters of R6 and the one modelling choice R92 leaves),
and the free values: every value the spec calls unspecified (`UNSPEC_N`, R9) is an opaque constant here,
applied to the number of values drawn so far, so that nothing can be proved about it. -/

namespace Sys2Proof

/-- What a read of an unwritten table entry does in the model. R65 gives two branches, "hardware" and "model",
and R92 admits either model as long as no particular value is chosen (log 5). -/
inductive UnwrittenRead where
  /-- The hardware's branch of R65: an unspecified byte is read, nothing is signalled, the machine goes on. -/
  | goOn
  /-- The model's branch of R65: the run stops with the fault `lutEntryUnwritten`. -/
  | fault
deriving DecidableEq, Repr

/-- The configuration of one machine. No step changes it. -/
structure Params where
  /-- `LUT_PRELOADED` (R6, R24): the table holds its final contents from reset on. -/
  lutPreloaded : Bool
  /-- Which branch of R65 a read of an unwritten entry takes. -/
  onUnwritten : UnwrittenRead
deriving DecidableEq, Repr

namespace Config

/-! The parameters of R6 that every machine shares. The model's types and numerals are these values. -/

/-- `XLEN` (R6). -/
def xlen : Nat := 32
/-- `RESULT_MAX` (R6). -/
def resultMax : Nat := 32
/-- `N_STRATEGIES` (R6). -/
def nStrategies : Nat := 4
/-- `LUT_DEPTH` (R6). -/
def lutDepth : Nat := 256
/-- `LUT_WIDTH` (R6). -/
def lutWidth : Nat := 8
/-- `N_LANES` (R6). -/
def nLanes : Nat := 4
/-- `LANE_WIDTH` (R6). -/
def laneWidth : Nat := 8
/-- `N_MASKS` (R6). -/
def nMasks : Nat := 5
/-- `N_ROUNDS` (R6). -/
def nRounds : Nat := 5
/-- `SEL_WIDTH` (R6). -/
def selWidth : Nat := 2
/-- `CMD_WIDTH` (R6). -/
def cmdWidth : Nat := 34
/-- `IDX_WIDTH` (R6). -/
def idxWidth : Nat := 6
/-- `INIT_IDX_WIDTH` (R6). -/
def initIdxWidth : Nat := 9
/-- `N_UNITS` (R6). -/
def nUnits : Nat := 1

/-- The byte a read of an unwritten entry returns (`UNSPEC_8`, R42, R65), by draw. -/
opaque unspecEntry : Nat → Byte
/-- `rsp_count` while `rsp_valid` = 0 (`UNSPEC_32`, R28), by draw. -/
opaque unspecRspCount : Nat → Word
/-- `SEL` after a reset event (`UNSPEC_2`, R14, R31), by draw. -/
opaque unspecSel : Nat → Select
/-- `W` after a reset event (`UNSPEC_32`, R15, R31), by draw. -/
opaque unspecW : Nat → Word
/-- `ACC` after a reset event (`UNSPEC_32`, R16, R31), by draw. -/
opaque unspecAcc : Nat → Word
/-- `IDX` after a reset event (`UNSPEC_6`, R17, R31), by draw. -/
opaque unspecIdx : Nat → BitVec 6
/-- `RES` after a reset event (`UNSPEC_32`, R18, R31), by draw. -/
opaque unspecRes : Nat → Word

end Config
end Sys2Proof
end

