-- ==== Sys2Proof/Machine/State.lean ====
section
/-! DEFINITION. The state of the machine as plain data: the nine elements of R11, the wires the host drives (R27),
the configuration (R6), and the model's own fields (which agent moves next, how many free values were drawn, the
mark of an unwritten read, whether a reset has happened). -/

namespace Sys2Proof.Machine

/-- Why a step stops the machine. The hardware itself never does (R89). -/
inductive Fault where
  /-- R92: the table entry `addr` was read while unwritten. Raised by a TABLE iterate step (and, in states no run
  reaches, by a table construction step), only where `Params.onUnwritten` is `fault`. Safe: the hardware goes on
  with an unspecified value, about which nothing can be claimed. -/
  | lutEntryUnwritten (addr : Byte)
deriving DecidableEq, Repr

/-- Why a step has no meaning. -/
inductive Refusal where
  /-- An instruction whose arm of `exec` has no meaning yet. Raised by `exec` only; no arm answers it now. Safe. -/
  | notModelled (mnemonic : String)
  /-- R93: EXEC or LUTINIT would step before the first reset after power-on. Raised by `step`. Safe: before that
  reset the whole state is unspecified (R102). -/
  | notReset
deriving DecidableEq, Repr

/-- `PHASE` (R13). -/
inductive Phase where
  /-- No command is in flight. -/
  | idle
  /-- A command has been accepted and has not completed. -/
  | busy
deriving DecidableEq, Repr

/-- The input wires the host drives (R27). The clock is not held: no rule depends on it (R108). -/
structure Pins where
  /-- `rst`: while it is asserted EXEC and LUTINIT take no step (R101). -/
  rst : Bool
  /-- `cmd_valid`: the host presents a command. -/
  cmdValid : Bool
  /-- `cmd_sel`. -/
  cmdSel : Select
  /-- `cmd_value`. -/
  cmdValue : Word
deriving DecidableEq, Repr

/-- What the host may do (R98). -/
inductive HostMove where
  /-- Assert `rst`: the reset event (R101). -/
  | assertReset
  /-- Release `rst`. -/
  | releaseReset
  /-- Drive `cmd_valid`, `cmd_sel` and `cmd_value`: present a command, change it, or withdraw it. -/
  | drive (valid : Bool) (sel : Select) (value : Word)
  /-- Read the four outputs. -/
  | read
deriving DecidableEq, Repr

/-- Which agent moves next (R10). -/
inductive Turn where
  /-- The host moves. -/
  | host (move : HostMove)
  /-- The command sequencer may take its step. -/
  | exec
  /-- The table init sequencer may take its step. -/
  | lutinit
deriving DecidableEq, Repr

/-- A memory: (address, byte) pairs, addresses strictly rising; an unlisted address holds no value. -/
abbrev Memory := List Host.Cell

/-- The state. -/
structure State where
  /-- `PHASE` (R13). -/
  phase : Phase
  /-- `SEL` (R14). -/
  sel : Select
  /-- `W` (R15). -/
  w : Word
  /-- `ACC` (R16). -/
  acc : Word
  /-- `IDX` (R17). -/
  idx : BitVec 6
  /-- `RES` (R18). -/
  res : Word
  /-- `RES_VALID` (R19). -/
  resValid : Bool
  /-- `INIT_IDX` (R25). -/
  initIdx : BitVec 9
  /-- `byte_lut_256x8` (R23): the written entries; an unlisted entry is unwritten (R24). -/
  lut : Memory
  /-- The configuration (R6); the model's field. -/
  params : Params
  /-- The input wires (R27); the host's. -/
  pins : Pins
  /-- The turns the environment has chosen, next one first (R10); the model's field. -/
  agenda : List Turn
  /-- A reset has happened since power-on (R93, R102); the model's field. -/
  initialised : Bool
  /-- How many times free values have been drawn; the model's field. -/
  draws : Nat
  /-- Addresses of the unwritten entries read so far, oldest first (R92); the model's field. -/
  unwrittenReads : List Byte
deriving DecidableEq, Repr

/-- The machine right after reset (R31, R101), with the parameter `LUT_PRELOADED` at its default `false` (R6).
`SEL`, `W`, `ACC`, `IDX` and `RES` are unspecified there; zero is this model's named value (DESIGN CHOICE, log 3). -/
def State.reset : State where
  phase := .idle
  sel := 0#2
  w := 0#32
  acc := 0#32
  idx := 0#6
  res := 0#32
  resValid := false
  initIdx := 0#9
  lut := []
  params := { lutPreloaded := false, onUnwritten := .goOn }
  pins := { rst := false, cmdValid := false, cmdSel := 0#2, cmdValue := 0#32 }
  agenda := []
  initialised := true
  draws := 0
  unwrittenReads := []

end Sys2Proof.Machine
end

