-- ==== Sys2Proof/Machine/Ops.lean ====
section
/-! DEFINITION. The named operations over the table and the registers: reads and writes of the byte table, the steps
common to the four commands (accept R74, the result multiplexer R77, complete R76, the dispatch R75), the table
construction step (R80), the reset event (R101) and the host's other moves (R98). There is no exception to take and
none to return from (R89, R94, R95). -/

namespace Sys2Proof.Machine

/-- What one step answers. -/
abbrev StepResult := Host.Outcome State Fault Refusal

/-! ### The byte table -/

/-- What address `a` holds; none where nothing is listed (an unwritten entry holds no value, R24). -/
def Memory.read : Memory → Nat → Option Byte
  | [], _ => none
  | (c, b) :: m, a => if a = c then some b else Memory.read m a

/-- `b` stored at address `a`, the rising order kept. -/
def Memory.write : Memory → Nat → Byte → Memory
  | [], a, b => [(a, b)]
  | (c, d) :: m, a, b =>
    if a < c then (a, b) :: (c, d) :: m
    else if a = c then (a, b) :: m
    else (c, d) :: Memory.write m a b

/-- The canonical form: addresses strictly rising, all of them table addresses (R33). -/
abbrev Memory.wf (m : Memory) : Prop := m.Pairwise (fun x y => x.1 < y.1) ∧ ∀ c ∈ m, c.1 < 256

/-- The finished contents (R23): entry `n` is the popcount of `n`. -/
def fullTable : Memory := (List.range 256).map fun n => (n, BitVec.ofNat 8 (popcount (BitVec.ofNat 8 n)))

/-- The entry at `addr` where it is written, that is where `addr < INIT_IDX` (R24, R65); none where it is not. -/
def State.lutEntry (s : State) (addr : Byte) : Option Byte :=
  if addr.toNat < s.initIdx.toNat then s.lut.read addr.toNat else none

/-- The mark R92 asks for, and the draw it admits: the address is recorded and one free value used up. -/
def State.noteUnwritten (s : State) (addr : Byte) : State :=
  { s with draws := s.draws + 1, unwrittenReads := s.unwrittenReads ++ [addr] }

/-- `MemRead(addr, 1)` (R9, R36): the entry, or, where it is unwritten, what the configuration asks for
(R42, R65, R92): an unspecified byte, or the fault. -/
def lutLoad (s : State) (addr : Byte) : Except Fault (Byte × State) :=
  match s.lutEntry addr with
  | some b => .ok (b, s)
  | none =>
    match s.params.onUnwritten with
    | .goOn => .ok (Config.unspecEntry s.draws, s.noteUnwritten addr)
    | .fault => .error (.lutEntryUnwritten addr)

/-! ### The command sequencer -/

/-- The accept step (R74): six elements written from the command. -/
def accept (i : Instr) (s : State) : State :=
  { s with sel := i.sel, w := i.value, acc := 0#32, idx := 0#6, resValid := false, phase := .busy }

/-- The result side of the strategy multiplexer (R77): `W` for PARALLEL, `ACC` for the others. -/
def State.resultMux (s : State) : Word := if s.sel = 3#2 then s.w else s.acc

/-- The complete step (R76). -/
def complete (s : State) : State := { s with res := s.resultMux, resValid := true, phase := .idle }

/-- One EXEC step on command `i` (R10, R75). With no command in flight, `i` is the command presented and is accepted.
With one in flight, of `i`'s strategy, the step is the strategy's `iterate` where `more` holds, the complete step
where `finished` does, and none where neither does (no run reaches that, log 9). With one of another strategy in
flight, `i` waits: nothing changes (R74). -/
def strategyStep (i : Instr) (more finished : Bool) (iterate : StepResult) (s : State) : StepResult :=
  match s.phase with
  | .idle => .next (accept i s)
  | .busy =>
    if s.sel = i.sel then
      if more then iterate
      else if finished then .next (complete s)
      else .next s
    else .next s

/-- The command in flight, by its select (R12, R75). An iterate or complete step reads no operand but `W`. -/
def State.inFlight (s : State) : Instr := Instr.ofSel s.sel s.w

/-- The command the host presents on the wires (R27, R48). -/
def State.presented (s : State) : Instr := decode (s.pins.cmdSel ++ s.pins.cmdValue)

/-- The presentation ends with the accept step that takes it (R74, R99 c; log 8). -/
def State.takeCommand (s : State) : State := { s with pins := { s.pins with cmdValid := false } }

/-! ### The table init sequencer -/

/-- A LUTINIT step is enabled (R80). -/
def State.lutinitEnabled (s : State) : Bool := decide (s.initIdx < 256#9)

/-- `MemWrite(INIT_IDX, 1, b)` and `INIT_IDX <- INIT_IDX + 1` (R80). -/
def State.appendEntry (s : State) (b : Byte) : State :=
  { s with lut := s.lut.write s.initIdx.toNat b, initIdx := s.initIdx + 1#9 }

/-- The LUTINIT step (R80): entry 0 is 0, entry `n` is entry `n >> 1` plus the low bit of `n`. -/
def lutinitStep (s : State) : StepResult :=
  if s.lutinitEnabled then
    if s.initIdx = 0#9 then .next (s.appendEntry 0#8)
    else
      match lutLoad s ((s.initIdx >>> 1).setWidth 8) with
      | .ok (b, t) => .next (t.appendEntry (b + (s.initIdx &&& 1#9).setWidth 8))
      | .error f => .fault f
  else .next s

/-! ### The host's moves -/

/-- The reset event (R31, R101): the control elements take their reset values, the datapath registers unspecified
ones. The host's wires, the configuration and the mark of R92 are no part of the block's reset. -/
def resetEvent (s : State) : State :=
  { s with
    phase := .idle
    resValid := false
    initIdx := if s.params.lutPreloaded then 256#9 else 0#9
    lut := if s.params.lutPreloaded then fullTable else []
    sel := Config.unspecSel s.draws
    w := Config.unspecW s.draws
    acc := Config.unspecAcc s.draws
    idx := Config.unspecIdx s.draws
    res := Config.unspecRes s.draws
    initialised := true
    draws := s.draws + 1 }

/-- `rst` set to a level. -/
def State.setRst (s : State) (level : Bool) : State := { s with pins := { s.pins with rst := level } }

/-- The command wires driven by the host (R27, R98). -/
def State.drive (s : State) (valid : Bool) (sel : Select) (value : Word) : State :=
  { s with pins := { s.pins with cmdValid := valid, cmdSel := sel, cmdValue := value } }

/-- A free value used up. -/
def State.drawOne (s : State) : State := { s with draws := s.draws + 1 }

/-- A move of the host (R98). A read changes no state of the block; it uses up the draw of the observation, so that
the next reading of an unspecified `rsp_count` is free of this one (R28, 93_implementation_defined.md U4). -/
def hostMove (m : HostMove) (s : State) : State :=
  match m with
  | .assertReset => (resetEvent s).setRst true
  | .releaseReset => s.setRst false
  | .drive valid sel value => s.drive valid sel value
  | .read => s.drawOne

/-! ### Whose turn it is -/

/-- The next turn (R10): the first of the agenda. Where the agenda is used up the host makes no move, and the table
is constructed before commands go on (one of the admitted orders; DESIGN CHOICE, log 2). -/
def State.nextTurn (s : State) : Turn :=
  match s.agenda with
  | t :: _ => t
  | [] => if s.lutinitEnabled then .lutinit else .exec

/-- The turn is taken off the agenda. -/
def State.dropTurn (s : State) : State := { s with agenda := s.agenda.tail }

end Sys2Proof.Machine
end

