-- ==== Sys2Proof/Machine/Naive1.lean ====
section
/-! DEFINITION. NAIVE1, the naive bit-scan (R58 to R60). -/

namespace Sys2Proof.Machine

/-- The NAIVE1 iterate step (R59): bit `IDX` of `W` is added. -/
def naive1Iterate (s : State) : State :=
  { s with acc := s.acc + testedBit s.w s.idx.toNat, idx := s.idx + 1#6 }

/-- NAIVE1 (R58): iterations while `IDX` < 32 (R59), complete at `IDX` = 32 (R60, R75). -/
def execNaive1 (value : Word) (s : State) : StepResult :=
  strategyStep (.naive1 value) (decide (s.idx < 32#6)) (decide (s.idx = 32#6)) (.next (naive1Iterate s)) s

end Sys2Proof.Machine
end

