-- ==== Sys2Proof/Machine/Naive2.lean ====
section
/-! DEFINITION. NAIVE2, the early-exit bit-scan (R61 to R63). -/

namespace Sys2Proof.Machine

/-- The NAIVE2 iterate step (R62): the low bit of `W` is added and `W` shifted right, both from the old `W`. -/
def naive2Iterate (s : State) : State :=
  { s with acc := s.acc + testedBit s.w 0, w := s.w >>> 1 }

/-- NAIVE2 (R61): iterations while `W` is not 0 (R62), complete at `W` = 0 (R63, R75). -/
def execNaive2 (value : Word) (s : State) : StepResult :=
  strategyStep (.naive2 value) (decide (s.w ≠ 0#32)) (decide (s.w = 0#32)) (.next (naive2Iterate s)) s

end Sys2Proof.Machine
end

