-- ==== Sys2Proof/Machine/Parallel.lean ====
section
/-! DEFINITION. PARALLEL, the parallel bit-summing reduction (R68 to R72). -/

namespace Sys2Proof.Machine

/-- The PARALLEL iterate step (R69): round `IDX`. It is enabled below 5 only, where `MASK[IDX]` exists (R38). -/
def parallelIterate (s : State) : State :=
  if h : s.idx.toNat < 5 then { s with w := parallelRound ⟨s.idx.toNat, h⟩ s.w, idx := s.idx + 1#6 } else s

/-- PARALLEL (R68): rounds while `IDX` < 5 (R69), complete at `IDX` = 5 (R72, R75). -/
def execParallel (value : Word) (s : State) : StepResult :=
  strategyStep (.parallel value) (decide (s.idx < 5#6)) (decide (s.idx = 5#6)) (.next (parallelIterate s)) s

end Sys2Proof.Machine
end

