-- ==== Sys2Proof/Machine/Table.lean ====
section
/-! DEFINITION. TABLE, the byte-table lookup (R64 to R67). -/

namespace Sys2Proof.Machine

/-- The table address of the next lookup (R39, R51 c, R65): lane `IDX` of `W`. -/
def State.laneAddr (s : State) : Byte := lane s.w s.idx.toNat

/-- A looked-up entry is zero-extended and added (R65). -/
def State.addEntry (s : State) (b : Byte) : State :=
  { s with acc := s.acc + b.setWidth 32, idx := s.idx + 1#6 }

/-- The TABLE iterate step (R65): one lookup, written or not. -/
def tableIterate (s : State) : StepResult :=
  match lutLoad s s.laneAddr with
  | .ok (b, t) => .next (t.addEntry b)
  | .error f => .fault f

/-- TABLE (R64): lookups while `IDX` < 4 (R65), complete at `IDX` = 4 (R66, R75). Accepted whatever `lut_ready` is
(R67). -/
def execTable (value : Word) (s : State) : StepResult :=
  strategyStep (.table value) (decide (s.idx < 4#6)) (decide (s.idx = 4#6)) (tableIterate s) s

end Sys2Proof.Machine
end

