-- ==== Sys2Proof/Machine/Dispatch.lean ====
section
/-! DEFINITION. The strategy multiplexer (R75): one EXEC step on a command, by the command's strategy. -/

namespace Sys2Proof.Machine

def exec (i : Instr) (s : State) : Host.Outcome State Fault Refusal :=
  match i with
  | .naive1 value => Sys2Proof.Machine.execNaive1 value s
  | .naive2 value => Sys2Proof.Machine.execNaive2 value s
  | .table value => Sys2Proof.Machine.execTable value s
  | .parallel value => Sys2Proof.Machine.execParallel value s

end Sys2Proof.Machine
end

