-- ==== Sys2Proof/Machine/Agents.lean ====
section
/-! DEFINITION. The turns of the three agents (R10, R73). -/

namespace Sys2Proof.Machine

/-- EXEC's turn (R73, R75): the command in flight takes its one enabled step; with none in flight the presented
command is accepted; with none presented no EXEC step is enabled and nothing changes. -/
def execTurn (s : State) : StepResult :=
  match s.phase with
  | .busy => exec s.inFlight s
  | .idle => if s.pins.cmdValid then exec s.presented s.takeCommand else .next s

/-- A step of the block itself (EXEC or LUTINIT): none has a meaning before the first reset (R93), and none is taken
while `rst` is asserted (R101). -/
def blockTurn (turn : State → StepResult) (s : State) : StepResult :=
  if s.initialised then if s.pins.rst then .next s else turn s
  else .refused .notReset

/-- One turn, taken off the agenda (R10). -/
def takeTurn (s : State) : StepResult :=
  match s.nextTurn with
  | .host m => .next (hostMove m s.dropTurn)
  | .exec => blockTurn execTurn s.dropTurn
  | .lutinit => blockTurn lutinitStep s.dropTurn

/-- `word` presented, with the next turn EXEC's and an accept step enabled. -/
def State.presentNext (s : State) (word : CommandWord) : State :=
  { s with
    phase := .idle
    initialised := true
    pins := { rst := false, cmdValid := true, cmdSel := selField word, cmdValue := valueField word }
    agenda := .exec :: s.agenda }

end Sys2Proof.Machine
end

