-- ==== Sys2Proof/Machine/Step.lean ====
section
/-! DEFINITION. One step of the machine: one turn of one agent (R10, R73). -/

namespace Sys2Proof.Machine

/-- One step: the next turn is taken. -/
def step (s : State) : Host.Outcome State Fault Refusal := takeTurn s

/-- `s` with the command word `w` presented by the host and EXEC's turn next, so that the very next step accepts it
(log 12). The block holds no program: a command comes from the host's wires (R45). -/
def State.withFetchWord (s : State) (nbits w : Nat) : State :=
  s.presentNext (BitVec.ofNat 34 (w % 2 ^ nbits))

end Sys2Proof.Machine
end

