-- ==== Sys2Proof/Machine/Asm.lean ====
section
/-! DEFINITION. The textual form of commands and of the host's lines (R55, R56), on lists of characters. -/

namespace Sys2Proof.Machine

/-- One line of text (R55). -/
inductive AsmLine where
  /-- A command. -/
  | command (i : Instr)
  /-- `RESET`: the host asserts reset. -/
  | reset
  /-- `WAIT_LUT`: the host waits until it observes `lut_ready` = 1. -/
  | waitLut
  /-- `READ`: the host waits until it observes `rsp_valid` = 1 and reads `rsp_count`. -/
  | read
  /-- Nothing, or a comment only. -/
  | blank
deriving DecidableEq, Repr

/-- The line up to its comment. -/
def stripComment : List Char → List Char
  | [] => []
  | c :: cs => if c = ';' then [] else c :: stripComment cs

/-- The line without the spaces it begins with. -/
def dropSpaces : List Char → List Char
  | [] => []
  | c :: cs => if c = ' ' then dropSpaces cs else c :: cs

/-- The first word of a line. -/
def firstWord : List Char → List Char
  | [] => []
  | c :: cs => if c = ' ' then [] else c :: firstWord cs

/-- What follows the first word. -/
def afterWord : List Char → List Char
  | [] => []
  | c :: cs => if c = ' ' then c :: cs else afterWord cs

/-- A decimal digit. -/
def decDigit (c : Char) : Option Nat :=
  if 48 ≤ c.toNat ∧ c.toNat ≤ 57 then some (c.toNat - 48) else none

/-- A hexadecimal digit, of either case. -/
def hexDigit (c : Char) : Option Nat :=
  if 48 ≤ c.toNat ∧ c.toNat ≤ 57 then some (c.toNat - 48)
  else if 65 ≤ c.toNat ∧ c.toNat ≤ 70 then some (c.toNat - 55)
  else if 97 ≤ c.toNat ∧ c.toNat ≤ 102 then some (c.toNat - 87)
  else none

/-- A digit string read on from `acc`, most significant digit first (R7). -/
def readDigits (base : Nat) (digit : Char → Option Nat) : List Char → Nat → Option Nat
  | [], acc => some acc
  | c :: cs, acc =>
    match digit c with
    | some d => readDigits base digit cs (acc * base + d)
    | none => none

/-- An unsigned literal: decimal, or `0x` and one to eight hexadecimal digits (R55). -/
def readLiteral (cs : List Char) : Option Nat :=
  match cs with
  | [] => none
  | '0' :: 'x' :: ds => if 1 ≤ ds.length ∧ ds.length ≤ 8 then readDigits 16 hexDigit ds 0 else none
  | ds => readDigits 10 decDigit ds 0

/-- `NAIVE1` -/
def nameNaive1 : List Char := ['N', 'A', 'I', 'V', 'E', '1']
/-- `NAIVE2` -/
def nameNaive2 : List Char := ['N', 'A', 'I', 'V', 'E', '2']
/-- `TABLE` -/
def nameTable : List Char := ['T', 'A', 'B', 'L', 'E']
/-- `PARALLEL` -/
def nameParallel : List Char := ['P', 'A', 'R', 'A', 'L', 'L', 'E', 'L']
/-- `count_bits_`, with which every alias begins (R56). -/
def aliasStem : List Char := ['c', 'o', 'u', 'n', 't', '_', 'b', 'i', 't', 's', '_']
/-- `naive1` -/
def stemNaive1 : List Char := ['n', 'a', 'i', 'v', 'e', '1']
/-- `naive2` -/
def stemNaive2 : List Char := ['n', 'a', 'i', 'v', 'e', '2']
/-- `table` -/
def stemTable : List Char := ['t', 'a', 'b', 'l', 'e']
/-- `parallel` -/
def stemParallel : List Char := ['p', 'a', 'r', 'a', 'l', 'l', 'e', 'l']

/-- The select a mnemonic (R55) or an alias (R56) names. -/
def mnemonicSel (name : List Char) : Option Nat :=
  if name = nameNaive1 ∨ name = aliasStem ++ stemNaive1 then some 0
  else if name = nameNaive2 ∨ name = aliasStem ++ stemNaive2 then some 1
  else if name = nameTable ∨ name = aliasStem ++ stemTable then some 2
  else if name = nameParallel ∨ name = aliasStem ++ stemParallel then some 3
  else none

/-- A host line (R55). -/
def hostLine (name : List Char) : Option AsmLine :=
  if name = ['R', 'E', 'S', 'E', 'T'] then some .reset
  else if name = ['W', 'A', 'I', 'T', '_', 'L', 'U', 'T'] then some .waitLut
  else if name = ['R', 'E', 'A', 'D'] then some .read
  else none

/-- A mnemonic and a literal in range are a command (R55); nothing else is. -/
def readCommand (name literal : List Char) : Option AsmLine :=
  match mnemonicSel name, readLiteral literal with
  | some sel, some value => (RawCommand.toInstr? ⟨sel, value⟩).map .command
  | _, _ => none

/-- One line read (R55): none where it is no line of the form the spec gives. -/
def readLine (line : List Char) : Option AsmLine :=
  let text := dropSpaces (stripComment line)
  let name := firstWord text
  let rest := dropSpaces (afterWord text)
  let literal := firstWord rest
  if dropSpaces (afterWord rest) ≠ [] then none
  else if name = [] then some .blank
  else if literal = [] then hostLine name
  else readCommand name literal

/-- An upper-case hexadecimal digit. -/
def digitChar (d : Nat) : Char := Char.ofNat (if d < 10 then 48 + d else 55 + d)

/-- The low `count` hexadecimal digits of a number, most significant first. -/
def hexText : Nat → Nat → List Char
  | 0, _ => []
  | count + 1, n => hexText count (n / 16) ++ [digitChar (n % 16)]

/-- The mnemonic of a command (R55). -/
def mnemonicText : Instr → List Char
  | .naive1 _ => nameNaive1
  | .naive2 _ => nameNaive2
  | .table _ => nameTable
  | .parallel _ => nameParallel

/-- A command written out (R55), its operand as eight hexadecimal digits. -/
def commandText (i : Instr) : List Char :=
  mnemonicText i ++ [' ', '0', 'x'] ++ hexText 8 i.value.toNat

/-- What the host does on the wires for a line (R55). A wait is no move: the host makes none until it has observed
what it waits for. -/
def AsmLine.moves : AsmLine → List HostMove
  | .command i => [.drive true i.sel i.value]
  | .reset => [.assertReset, .releaseReset]
  | .waitLut => []
  | .read => [.read]
  | .blank => []

end Sys2Proof.Machine
end

