-- ==== Sys2Proof/Machine/Flags.lean ====
section
/-! DEFINITION. The status outputs (R28, R29). The block has no condition codes and no arithmetic flag (R29): these four
functions of the state are all the host can read. -/

namespace Sys2Proof.Machine

/-- `cmd_ready` (R28). -/
def State.cmdReady (s : State) : Bool := decide (s.phase = .idle)

/-- `rsp_valid` (R28). -/
def State.rspValid (s : State) : Bool := s.resValid

/-- `rsp_count` (R28, R57): `RES`, or an unspecified word while `rsp_valid` is 0. -/
def State.rspCount (s : State) : Word := if s.resValid then s.res else Config.unspecRspCount s.draws

/-- `lut_ready` (R26, R28). -/
def State.lutReady (s : State) : Bool := decide (s.initIdx = 256#9)

end Sys2Proof.Machine
end

