-- ==== Sys2Proof/Machine/Functions.lean ====
section
/-! DEFINITION. The function layer (R83): each operation as the pseudocode of its function rule, a function of the
operand and the read-only constants. No step uses it; statements relate the step layer to it. -/

namespace Sys2Proof.Machine

/-- `acc` after the first `n` passes of R58's loop, bit positions in ascending order. -/
def naive1Loop (value : Word) : Nat → Word
  | 0 => 0#32
  | n + 1 => naive1Loop value n + testedBit value n

/-- NAIVE1 as a function (R58). -/
def naive1Count (value : Word) : Word := naive1Loop value 32

/-- R61's loop from `acc` and `rem`, at most `n` passes; the zero test comes before every pass. -/
def naive2Loop : Nat → Word → Word → Word
  | 0, acc, _ => acc
  | n + 1, acc, rem => if rem = 0#32 then acc else naive2Loop n (acc + testedBit rem 0) (rem >>> 1)

/-- NAIVE2 as a function (R61); 32 passes always reach a remaining value of zero (R63). -/
def naive2Count (value : Word) : Word := naive2Loop 32 0#32 value

/-- TABLE as a function of the operand and the table's contents (R64); none where an entry read is unwritten. -/
def tableCount (lut : Memory) (value : Word) : Option Word :=
  match lut.read (lane value 0).toNat, lut.read (lane value 1).toNat, lut.read (lane value 2).toNat,
    lut.read (lane value 3).toNat with
  | some b0, some b1, some b2, some b3 =>
    some (b0.setWidth 32 + b1.setWidth 32 + b2.setWidth 32 + b3.setWidth 32)
  | _, _, _, _ => none

/-- PARALLEL as a function (R68): the five rounds in ascending order, no mask after the last (R71). -/
def parallelCount (value : Word) : Word :=
  parallelRound 4 (parallelRound 3 (parallelRound 2 (parallelRound 1 (parallelRound 0 value))))

end Sys2Proof.Machine
end

