-- ==== Sys2Proof/Safety.lean ====
section
/-! DEFINITION. The terms statements are made in: repeated steps of one agent, the result of one command, what a turn
does (accepts, completes, resets), the laws of R32 as one invariant over a state and the little history it needs, the
host's duty (R104) and the end of a run (R110). -/

namespace Sys2Proof.Machine

/-! ### Repeated steps of one agent -/

/-- `n` EXEC steps on command `i`, stopping at a fault. -/
def execTimes (i : Instr) : Nat → State → StepResult
  | 0, s => .next s
  | n + 1, s =>
    match exec i s with
    | .next t => execTimes i n t
    | .fault f => .fault f
    | .refused r => .refused r

/-- EXEC steps on command `i` until none is in flight, at most `n`. -/
def execUntilIdle (i : Instr) : Nat → State → StepResult
  | 0, s => .next s
  | n + 1, s =>
    match s.phase with
    | .idle => .next s
    | .busy =>
      match exec i s with
      | .next t => execUntilIdle i n t
      | .fault f => .fault f
      | .refused r => .refused r

/-- One command from its first EXEC step on, no other agent stepping; at most 32 iterations and the completion follow
the first step (R78). -/
def runCommand (i : Instr) (s : State) : StepResult :=
  match exec i s with
  | .next t => execUntilIdle i 33 t
  | .fault f => .fault f
  | .refused r => .refused r

/-- What the host reads after `runCommand`: the result, where one is valid (R83). -/
def commandResult (i : Instr) (s : State) : Option Word :=
  match runCommand i s with
  | .next t => if t.rspValid then some t.res else none
  | .fault _ => none
  | .refused _ => none

/-- `n` LUTINIT steps. -/
def lutinitTimes : Nat → State → StepResult
  | 0, s => .next s
  | n + 1, s =>
    match lutinitStep s with
    | .next t => lutinitTimes n t
    | .fault f => .fault f
    | .refused r => .refused r

/-- `n` steps of the machine. -/
def stepTimes : Nat → State → StepResult
  | 0, s => .next s
  | n + 1, s =>
    match step s with
    | .next t => stepTimes n t
    | .fault f => .fault f
    | .refused r => .refused r

/-- One step after another. -/
def andThen (r : StepResult) (f : State → StepResult) : StepResult :=
  match r with
  | .next t => f t
  | .fault e => .fault e
  | .refused e => .refused e

/-- The same answer with its next state changed by `f`. -/
def mapNext (f : State → State) (r : StepResult) : StepResult := andThen r fun t => .next (f t)

/-- `s` with the five registers that R31 leaves unspecified after a reset set to the values given. -/
def State.withDatapath (s : State) (sel : Select) (w acc : Word) (idx : BitVec 6) (res : Word) : State :=
  { s with sel := sel, w := w, acc := acc, idx := idx, res := res }

/-- `s` with another `RES`. -/
def State.withRes (s : State) (res : Word) : State := { s with res := res }

/-! ### What the next turn does -/

/-- The next turn is EXEC's and the block is running (R93, R101). -/
def State.execMoves (s : State) : Bool := decide (s.nextTurn = .exec) && s.initialised && !s.pins.rst

/-- The end condition of the strategy in flight (R75, last column). -/
def State.endCondition (s : State) : Bool :=
  match s.sel with
  | 0#2 => decide (s.idx = 32#6)
  | 1#2 => decide (s.w = 0#32)
  | 2#2 => decide (s.idx = 4#6)
  | 3#2 => decide (s.idx = 5#6)

/-- The iterate condition of the strategy in flight (R75). -/
def State.iterateCondition (s : State) : Bool :=
  match s.sel with
  | 0#2 => decide (s.idx < 32#6)
  | 1#2 => decide (s.w ≠ 0#32)
  | 2#2 => decide (s.idx < 4#6)
  | 3#2 => decide (s.idx < 5#6)

/-- The iterate step of the strategy in flight (R75, column "iterate rule"). -/
def State.iterateStep (s : State) : StepResult :=
  match s.sel with
  | 0#2 => .next (naive1Iterate s)
  | 1#2 => .next (naive2Iterate s)
  | 2#2 => tableIterate s
  | 3#2 => .next (parallelIterate s)

/-- The next turn accepts the presented command (R74). -/
def State.accepts (s : State) : Bool := s.execMoves && decide (s.phase = .idle) && s.pins.cmdValid

/-- The next turn completes the command in flight (R76). -/
def State.completes (s : State) : Bool := s.execMoves && decide (s.phase = .busy) && s.endCondition

/-- The next turn is the reset event (R101). -/
def State.resets (s : State) : Bool := decide (s.nextTurn = .host .assertReset)

/-! ### The invariant (R32) -/

/-- The history R32 speaks of and no register holds: the operand of the last accepted command, and whether a command
has completed since the last reset. -/
structure History where
  operand : Word
  completed : Bool
deriving DecidableEq, Repr

/-- The history after the next turn. -/
def History.after (h : History) (s : State) : History :=
  if s.resets then { h with completed := false }
  else if s.accepts then { h with operand := s.pins.cmdValue }
  else if s.completes then { h with completed := true }
  else h

/-- R32 (a), R24: `INIT_IDX` is at most 256, and entry `n` is written, with value popcount(n), exactly when
`n < INIT_IDX`; the table is in canonical form. -/
structure TableInv (s : State) : Prop where
  canonical : s.lut.wf
  bound : s.initIdx.toNat ≤ 256
  entries : ∀ n : Nat, s.lut.read n =
    if n < s.initIdx.toNat then some (BitVec.ofNat 8 (popcount (BitVec.ofNat 8 n))) else none

/-- A fault is recorded (R92): an unwritten entry has been read. -/
def State.faultRecorded (s : State) : Prop := s.unwrittenReads ≠ []

/-- Field `g` of `v`, when `v` is cut into fields of `2^k` bits (R70). -/
def field (v : Word) (k g : Nat) : BitVec (2 ^ k) := v.extractLsb' (g * 2 ^ k) (2 ^ k)

/-- R32 (b) to (e): what the working registers hold while a command on `operand` is in flight. -/
structure InFlightInv (operand : Word) (s : State) : Prop where
  noResult : s.resValid = false
  naive1 : s.sel = 0#2 → s.idx.toNat ≤ 32 ∧ s.w = operand ∧ s.acc.toNat = onesBelow operand s.idx.toNat
  naive2 : s.sel = 1#2 → s.idx = 0#6 ∧ ∃ t ≤ 32, s.w = operand >>> t ∧ s.acc.toNat = onesBelow operand t
  table : s.sel = 2#2 → s.idx.toNat ≤ 4 ∧ s.w = operand ∧
    (¬ s.faultRecorded → s.acc.toNat = onesBelow operand (8 * s.idx.toNat))
  parallel : s.sel = 3#2 → s.idx.toNat ≤ 5 ∧ s.acc = 0#32 ∧
    ∀ g < 32 / 2 ^ s.idx.toNat, (field s.w s.idx.toNat g).toNat = popcount (field operand s.idx.toNat g)

/-- R32 (a) to (g), over a state and its history. A TABLE command's values are claimed only where no fault is
recorded (R92). -/
structure Inv (h : History) (s : State) : Prop where
  table : TableInv s
  inFlight : s.phase = .busy → InFlightInv h.operand s
  result : s.resValid = true → s.phase = .idle ∧
    ((s.sel = 2#2 → ¬ s.faultRecorded) → s.res.toNat = popcount h.operand)
  resultHeld : s.phase = .idle → s.resValid = h.completed

/-- The table is complete: every entry is written with its popcount (R23, R26). -/
def TableComplete (s : State) : Prop := TableInv s ∧ s.lutReady = true

/-! ### The host's duty and the end of a run -/

/-- The host keeps R104 at this step: a TABLE command is accepted only while `lut_ready` is 1. -/
def State.keepsTableDuty (s : State) : Prop := s.accepts = true → s.pins.cmdSel = 2#2 → s.lutReady = true

/-- A TABLE command is in flight only with the table complete: what R104 ensures. -/
def State.tableDutyKept (s : State) : Prop := s.phase = .busy → s.sel = 2#2 → s.lutReady = true

/-- A turn that presents a command. -/
def Turn.presents : Turn → Bool
  | .host (.drive valid _ _) => valid
  | .host _ => false
  | .exec => false
  | .lutinit => false

/-- The commands accepted in the next `n` steps, in the order they are accepted. -/
def acceptedIn : Nat → State → List Instr
  | 0, _ => []
  | n + 1, s =>
    (if s.accepts then [s.presented] else []) ++
      match step s with
      | .next t => acceptedIn n t
      | .fault _ => []
      | .refused _ => []

/-- The host's turns of a run (R110): reset asserted and released, and each command of the sequence presented. The
block's turns among them are enough for the table to be constructed and for every command to complete; a run with
other turns between is another agenda. -/
def runTurns (commands : List Instr) : List Turn :=
  [.host .assertReset, .host .releaseReset] ++ List.replicate 256 .lutinit ++
    commands.flatMap fun i => .host (.drive true i.sel i.value) :: List.replicate 34 .exec

/-- The end of a run of the host's sequence `commands`, of which `accepted` have been accepted (R110). -/
structure RunEnded (commands accepted : List Instr) (speaksOfLutReady : Bool) (s : State) : Prop where
  /-- Every command of the sequence has been accepted, in its order. -/
  allAccepted : accepted = commands
  /-- No command waits on the wires. -/
  nonePending : s.pins.cmdValid = false
  /-- The host presents no further command. -/
  noneToCome : s.agenda.all (fun t => !t.presents) = true
  /-- `PHASE` = `IDLE`. -/
  idle : s.phase = .idle
  /-- `RES_VALID` = 1, if the sequence was not empty. -/
  resultHeld : commands ≠ [] → s.resValid = true
  /-- No fault is recorded. -/
  noFault : ¬ s.faultRecorded
  /-- `INIT_IDX` = 256, if the claim speaks of `lut_ready`. -/
  tableBuilt : speaksOfLutReady = true → s.initIdx = 256#9

end Sys2Proof.Machine
end

