-- ==== Sys2Proof/Certificates/Slice0/Obligations.lean ====
section
/-! DEFINITION. The statements about the machine, for the provers. Each docstring names the rule of the spec it
formalises, or says that the spec marks the point as its own derivation, or that it is the model's choice. -/

open Sys2Proof Sys2Proof.Machine

/-! ### Encoding -/

/-- R49: the select field chooses the operation; the match and mask pairs of the opcode map say the same. -/
def Obligations.SelectFieldChoosesOperation : Prop :=
  (∀ v : Word, decode (0#2 ++ v) = .naive1 v ∧ decode (1#2 ++ v) = .naive2 v ∧ decode (2#2 ++ v) = .table v ∧
    decode (3#2 ++ v) = .parallel v) ∧
  (∀ word : CommandWord,
    (word &&& 0x300000000#34 = 0x000000000#34 ↔ decode word = .naive1 (valueField word)) ∧
    (word &&& 0x300000000#34 = 0x100000000#34 ↔ decode word = .naive2 (valueField word)) ∧
    (word &&& 0x300000000#34 = 0x200000000#34 ↔ decode word = .table (valueField word)) ∧
    (word &&& 0x300000000#34 = 0x300000000#34 ↔ decode word = .parallel (valueField word)))

/-- Decoding and encoding are inverse in both directions, and decoding loses no bit. The spec marks this (R53) as
derived from its format and opcode map. -/
def Obligations.DecodeAndEncodeAgree : Prop :=
  (∀ i : Instr, i.wellFormed = true ∧ decode (encode i) = i) ∧
  (∀ word : CommandWord, encode (decode word) = word) ∧
  (∀ word : CommandWord, (decode word).sel = word.extractLsb' 32 2 ∧ (decode word).value = word.extractLsb' 0 32) ∧
  (∀ a b : CommandWord, decode a = decode b → a = b)

/-- R52 for words given as numbers: every number below 2^34 is a command. That a wider number is rejected is the
model's reading of the fixed length (log 13). -/
def Obligations.EveryCommandWordDecodes : Prop :=
  (∀ n : Nat, n < 2 ^ 34 → decodeNat n = .ok (decode (BitVec.ofNat 34 n))) ∧
  (∀ n : Nat, 2 ^ 34 ≤ n → decodeNat n = .error .widerThanCommand) ∧
  (∀ nbits n : Nat, n < 2 ^ 34 → n < 2 ^ nbits → decodeTableWord nbits n = some (decode (BitVec.ofNat 34 n)))

/-- The four example words of the assembler section (30_encoding.md section 5) decode to the commands it names. -/
def Obligations.ExampleWordsDecode : Prop :=
  decodeTableWord 40 0x200FF00FF = some (.table 0x00FF00FF#32) ∧
  decodeTableWord 40 0x000000001 = some (.naive1 0x00000001#32) ∧
  decodeTableWord 40 0x110101010 = some (.naive2 0x10101010#32) ∧
  decodeTableWord 40 0x3FFFFFFFF = some (.parallel 0xFFFFFFFF#32)

/-- The text of a command, its operand in eight hexadecimal digits, reads back as the command (30_encoding.md
section 5); the choice of eight digits is the model's (log 14). -/
def Obligations.CommandTextReadsBack : Prop :=
  ∀ i : Instr, readLine (commandText i) = some (.command i)

/-! ### The step and the command it runs -/

/-- When it is EXEC's turn, a step is `exec` of the decoded command presented (the turn taken off the agenda and the
presentation taken, log 1, 2 and 8), or of the command in flight, whose operand is not read again; with neither, the
turn passes. -/
def Obligations.StepRunsTheCommand : Prop :=
  (∀ (s : State) (i : Instr), s.accepts = true → decode (s.pins.cmdSel ++ s.pins.cmdValue) = i →
    step s = exec i s.dropTurn.takeCommand) ∧
  (∀ (s : State) (v : Word), s.execMoves = true → s.phase = .busy →
    step s = exec (Instr.ofSel s.sel v) s.dropTurn) ∧
  (∀ s : State, s.execMoves = true → s.phase = .idle → s.pins.cmdValid = false → step s = .next s.dropTurn)

/-- A command word placed by `withFetchWord` is the one the very next step runs (log 12). -/
def Obligations.PlacedWordRunsNext : Prop :=
  ∀ (s : State) (nbits w : Nat) (i : Instr), decodeTableWord nbits w = some i →
    step (s.withFetchWord nbits w) = exec i (s.withFetchWord nbits w).dropTurn.takeCommand

/-- R74: the accept step writes six elements and leaves `RES`, `INIT_IDX` and the table; a command presented while busy
changes nothing and stays pending; nothing an earlier command left in the working registers is read. -/
def Obligations.AcceptTakesThePresentedCommand : Prop :=
  (∀ s : State, s.accepts = true → ∃ t, step s = .next t ∧
    t.sel = s.pins.cmdSel ∧ t.w = s.pins.cmdValue ∧ t.acc = 0#32 ∧ t.idx = 0#6 ∧ t.resValid = false ∧
    t.phase = .busy ∧ t.res = s.res ∧ t.initIdx = s.initIdx ∧ t.lut = s.lut) ∧
  (∀ (s : State) (valid : Bool) (c : Select) (v : Word), s.phase = .busy → (∀ m, s.nextTurn ≠ .host m) →
    step (s.drive valid c v) = mapNext (fun t => t.drive valid c v) (step s)) ∧
  (∀ (i : Instr) (s : State) (c : Select) (v a : Word) (x : BitVec 6), s.phase = .idle →
    exec i { s with sel := c, w := v, acc := a, idx := x } = exec i s)

/-- A command of another strategy than the one in flight waits: nothing changes (44_controller.md section 1). -/
def Obligations.OtherStrategyWaitsWhileBusy : Prop :=
  ∀ (i : Instr) (s : State), s.phase = .busy → s.sel ≠ i.sel → exec i s = .next s

/-! ### The four iterate steps and the complete step -/

/-- R59: the NAIVE1 iterate step adds bit `IDX` of `W` and steps `IDX`, and does nothing else. -/
def Obligations.Naive1IterateAddsBitIdx : Prop :=
  ∀ (v : Word) (s : State), s.phase = .busy → s.sel = 0#2 →
    (s.idx < 32#6 → exec (.naive1 v) s =
      .next { s with acc := s.acc + ((s.w >>> s.idx.toNat) &&& 1#32), idx := s.idx + 1#6 }) ∧
    (¬ s.idx < 32#6 → ∀ t, exec (.naive1 v) s = .next t → t.acc = s.acc ∧ t.idx = s.idx)

/-- R62: the NAIVE2 iterate step adds the low bit of `W` and shifts `W` right, and does nothing else. -/
def Obligations.Naive2IterateShiftsW : Prop :=
  ∀ (v : Word) (s : State), s.phase = .busy → s.sel = 1#2 →
    (s.w ≠ 0#32 → exec (.naive2 v) s = .next { s with acc := s.acc + (s.w &&& 1#32), w := s.w >>> 1 }) ∧
    (s.w = 0#32 → ∀ t, exec (.naive2 v) s = .next t → t.acc = s.acc ∧ t.w = s.w)

/-- The TABLE iterate step (42_table.md section 2): a written entry is added; at an unwritten one the machine goes on
with an unspecified byte under the mark, or faults, as the configuration asks (the model's choice, log 5 and 11). -/
def Obligations.TableIterateReadsOneLane : Prop :=
  ∀ (v : Word) (s : State) (addr : Byte), s.phase = .busy → s.sel = 2#2 →
    addr = ((s.w >>> (8 * s.idx.toNat)) &&& 0xFF#32).setWidth 8 →
    (s.idx < 4#6 →
      (TableInv s → addr.toNat < s.initIdx.toNat → exec (.table v) s =
        .next { s with acc := s.acc + BitVec.ofNat 32 (popcount addr), idx := s.idx + 1#6 }) ∧
      (s.initIdx.toNat ≤ addr.toNat → s.params.onUnwritten = .goOn → exec (.table v) s =
        .next { s with
          acc := s.acc + (Config.unspecEntry s.draws).setWidth 32
          idx := s.idx + 1#6
          draws := s.draws + 1
          unwrittenReads := s.unwrittenReads ++ [addr] }) ∧
      (s.initIdx.toNat ≤ addr.toNat → s.params.onUnwritten = .fault →
        exec (.table v) s = .fault (.lutEntryUnwritten addr)) ∧
      (s.lutReady = true → addr.toNat < s.initIdx.toNat)) ∧
    (¬ s.idx < 4#6 → ∀ t, exec (.table v) s = .next t → t.acc = s.acc ∧ t.idx = s.idx)

/-- R69: the PARALLEL iterate step is one round, and does nothing else. -/
def Obligations.ParallelIterateIsOneRound : Prop :=
  ∀ (v : Word) (s : State), s.phase = .busy → s.sel = 3#2 →
    (∀ h : s.idx.toNat < 5, exec (.parallel v) s =
      .next { s with
        w := (s.w &&& mask ⟨s.idx.toNat, h⟩) + ((s.w >>> (2 ^ s.idx.toNat)) &&& mask ⟨s.idx.toNat, h⟩)
        idx := s.idx + 1#6 }) ∧
    (¬ s.idx.toNat < 5 → ∀ t, exec (.parallel v) s = .next t → t.w = s.w ∧ t.idx = s.idx)

/-- R76: at its end condition each command delivers `ACC` (PARALLEL: `W`) in `RES`, and does nothing else; the result
then shows on `rsp_count` until the next accept or reset. -/
def Obligations.CompleteDeliversTheResult : Prop :=
  (∀ (i : Instr) (s : State), s.phase = .busy → s.sel = i.sel →
    (s.sel = 0#2 ∧ s.idx = 32#6 ∨ s.sel = 1#2 ∧ s.w = 0#32 ∨ s.sel = 2#2 ∧ s.idx = 4#6 ∨
      s.sel = 3#2 ∧ s.idx = 5#6) →
    ∃ t, exec i s = .next t ∧
      t = { s with res := if s.sel = 3#2 then s.w else s.acc, resValid := true, phase := .idle } ∧
      t.cmdReady = true ∧ t.rspValid = true ∧ t.rspCount = t.res) ∧
  (∀ s t : State, s.phase = .idle → s.rspValid = true → s.accepts = false → s.resets = false → step s = .next t →
    t.rspValid = true ∧ t.rspCount = s.rspCount ∧ t.phase = .idle)

/-- The strategy multiplexer (44_controller.md section 1, table "Dispatch"): in every state of the invariant with a
command in flight exactly one of the strategy's iterate condition and end condition holds, and `exec` takes the
strategy's iterate step under the one and the complete step under the other, whatever operand the command is named
with; with none in flight the only EXEC step is the accept of a presented command (which takes the presentation, log
8), and with none presented there is no step. -/
def Obligations.ExactlyOneExecStepIsEnabled : Prop :=
  (∀ (h : History) (s : State), Inv h s → s.phase = .busy →
    (s.iterateCondition = true ∧ s.endCondition = false ∧
      exec s.inFlight s = s.iterateStep ∧ ∀ v : Word, exec (Instr.ofSel s.sel v) s = s.iterateStep) ∨
    (s.iterateCondition = false ∧ s.endCondition = true ∧
      exec s.inFlight s = .next (complete s) ∧ ∀ v : Word, exec (Instr.ofSel s.sel v) s = .next (complete s))) ∧
  (∀ s : State, s.phase = .idle →
    (s.pins.cmdValid = true → execTurn s = .next (accept s.presented s.takeCommand)) ∧
    (s.pins.cmdValid = false → execTurn s = .next s))

/-! ### Whole commands -/

/-- R58: NAIVE1 takes the accept step, 32 iterations and the complete step for every operand, and its result is the
number of 1 bits; the operand stays in `W`. -/
def Obligations.Naive1CountsAllPositions : Prop :=
  ∀ (v : Word) (s : State), s.phase = .idle →
    decode (0#2 ++ v) = .naive1 v ∧ naive1Count v = BitVec.ofNat 32 (popcount v) ∧
    execTimes (.naive1 v) 34 s = .next { s with
      phase := .idle, sel := 0#2, w := v, acc := BitVec.ofNat 32 (popcount v), idx := 32#6
      res := BitVec.ofNat 32 (popcount v), resValid := true }

/-- R61: NAIVE2 takes as many iterations as the operand is long, none for 0, and its result is the number of 1 bits;
`W` ends at 0. -/
def Obligations.Naive2CountsUntilZero : Prop :=
  ∀ (v : Word) (s : State), s.phase = .idle →
    decode (1#2 ++ v) = .naive2 v ∧ naive2Count v = BitVec.ofNat 32 (popcount v) ∧ bitlen v ≤ 32 ∧
    (bitlen v = 0 ↔ v = 0#32) ∧
    execTimes (.naive2 v) (bitlen v + 2) s = .next { s with
      phase := .idle, sel := 1#2, w := 0#32, acc := BitVec.ofNat 32 (popcount v), idx := 0#6
      res := BitVec.ofNat 32 (popcount v), resValid := true }

/-- A TABLE command whose four lanes all address written entries takes 4 lookups and its result is the number of 1
bits, whether or not the table is complete (42_table.md sections 1 and 2). -/
def Obligations.TableSumsFourLanes : Prop :=
  ∀ (v : Word) (s : State), s.phase = .idle → TableInv s → (∀ j < 4, (lane v j).toNat < s.initIdx.toNat) →
    tableCount s.lut v = some (BitVec.ofNat 32 (popcount v)) ∧
    execTimes (.table v) 6 s = .next { s with
      phase := .idle, sel := 2#2, w := v, acc := BitVec.ofNat 32 (popcount v), idx := 4#6
      res := BitVec.ofNat 32 (popcount v), resValid := true }

/-- R68: PARALLEL takes 5 rounds for every operand and its result, from `W`, is the number of 1 bits; the table is
not read. -/
def Obligations.ParallelReducesInFiveRounds : Prop :=
  ∀ (v : Word) (s : State), s.phase = .idle →
    decode (3#2 ++ v) = .parallel v ∧ parallelCount v = BitVec.ofNat 32 (popcount v) ∧
    execTimes (.parallel v) 7 s = .next { s with
      phase := .idle, sel := 3#2, w := BitVec.ofNat 32 (popcount v), acc := 0#32, idx := 5#6
      res := BitVec.ofNat 32 (popcount v), resValid := true }

/-- R84: with the table complete the four operations deliver the identical result, and so do the four functions. -/
def Obligations.FourStrategiesAgree : Prop :=
  ∀ v : Word,
    (∀ s : State, s.phase = .idle → TableComplete s → ∃ r : Word,
      commandResult (.naive1 v) s = some r ∧ commandResult (.naive2 v) s = some r ∧
      commandResult (.table v) s = some r ∧ commandResult (.parallel v) s = some r) ∧
    naive2Count v = naive1Count v ∧ tableCount fullTable v = some (naive1Count v) ∧ parallelCount v = naive1Count v

/-- Every result is at most 32, 0 only for operand 0 and 32 only for the operand of all ones. The spec marks this
(44_controller.md section 2, range) as derived. -/
def Obligations.ResultsAreInRange : Prop :=
  ∀ (i : Instr) (s : State), s.phase = .idle → TableComplete s → ∃ r : Word,
    commandResult i s = some r ∧ r.toNat ≤ 32 ∧ (r = 0#32 ↔ i.value = 0#32) ∧
    (r = 32#32 ↔ i.value = 0xFFFFFFFF#32)

/-- R88: the complement, zero, full and single-bit properties and the seven literal scenarios, for every operation. -/
def Obligations.RequiredPropertiesOfEveryOperation : Prop :=
  ∀ (c : Select) (s : State), s.phase = .idle → TableComplete s →
    (∀ x : Word, ∃ a b : Word, commandResult (Instr.ofSel c x) s = some a ∧
      commandResult (Instr.ofSel c (~~~x)) s = some b ∧ a.toNat + b.toNat = 32) ∧
    (∀ k < 32, commandResult (Instr.ofSel c (1#32 <<< k)) s = some 1#32) ∧
    commandResult (Instr.ofSel c 0xFFFFFFFF#32) s = some 32#32 ∧
    commandResult (Instr.ofSel c 0x00000001#32) s = some 1#32 ∧
    commandResult (Instr.ofSel c 0x00000000#32) s = some 0#32 ∧
    commandResult (Instr.ofSel c 0x10101010#32) s = some 4#32 ∧
    commandResult (Instr.ofSel c 0x01010101#32) s = some 4#32 ∧
    commandResult (Instr.ofSel c 0xFFFF0000#32) s = some 16#32 ∧
    commandResult (Instr.ofSel c 0x00FF00FF#32) s = some 16#32

/-- R3: a result depends on the command alone: not on the state it started in, nor on a command run before; the
working registers are overwritten before they are read. -/
def Obligations.ResultDependsOnOperandOnly : Prop :=
  (∀ (i : Instr) (s s' : State), s.phase = .idle → s'.phase = .idle → TableComplete s → TableComplete s' →
    commandResult i s = commandResult i s') ∧
  (∀ (i j : Instr) (s t : State), s.phase = .idle → TableComplete s → runCommand j s = .next t →
    commandResult i t = commandResult i s) ∧
  (∀ (i : Instr) (s : State) (c : Select) (v a : Word) (x : BitVec 6), s.phase = .idle →
    exec i { s with sel := c, w := v, acc := a, idx := x } = exec i s)

/-- An accepted command completes after at most 33 more EXEC steps, with no other agent's help, and delivers the
popcount of its operand. The spec marks this (44_controller.md section 1, progress) as derived. A TABLE command in
flight is one the host was allowed to issue, with no fault recorded. -/
def Obligations.AcceptedCommandsComplete : Prop :=
  ∀ (h : History) (s : State), Inv h s → s.phase = .busy → s.tableDutyKept → (s.sel = 2#2 → ¬ s.faultRecorded) →
    ∃ n ≤ 33, ∃ t, execTimes s.inFlight n s = .next t ∧ t.phase = .idle ∧ t.resValid = true ∧
      t.res.toNat = popcount h.operand

/-- A TABLE command always completes where an unwritten read goes on, whatever the table holds: the hardware delivers a
count with `rsp_valid` = 1 (70_reset_and_hazards.md section 3, hazard H1; going on is the model's choice, log 5). -/
def Obligations.EarlyTableStillCompletes : Prop :=
  ∀ (v : Word) (s : State), s.phase = .idle → s.params.onUnwritten = .goOn → ∃ t,
    execTimes (.table v) 6 s = .next t ∧ t.phase = .idle ∧ t.resValid = true ∧ t.res = t.acc ∧ t.sel = 2#2 ∧
      t.w = v ∧ t.idx = 4#6 ∧ t.lut = s.lut ∧ t.initIdx = s.initIdx

/-- A command presented with exactly 34 of EXEC's turns to come runs to the end of a run: accepted once, completed,
its popcount on `rsp_count`, the turns left over passing (70_reset_and_hazards.md section 5). That the agenda is the
order of the agents is the model's choice (log 2), and so is that the accept lowers `cmd_valid` (log 8), on which rest
that no command waits at the end and that the turns left over accept none. -/
def Obligations.PresentedCommandRunsToItsEnd : Prop :=
  ∀ s : State, s.phase = .idle → s.initialised = true → s.pins.rst = false → s.pins.cmdValid = true →
    s.agenda = List.replicate 34 .exec → TableComplete s → ¬ s.faultRecorded →
    ∃ t, stepTimes 34 s = .next t ∧ RunEnded [s.presented] (acceptedIn 34 s) true t ∧
      t.rspCount.toNat = popcount s.pins.cmdValue ∧ TableComplete t

/-- A run of any sequence of commands, from its reset to its end (70_reset_and_hazards.md section 5): reset, the table
constructed (or preloaded), each command presented and given 34 of EXEC's turns. Every command is accepted in its
order, the run has ended, and the last command's popcount is on `rsp_count`. The order of the turns is one agenda
(log 2), an accept lowers `cmd_valid` (log 8) and a reset keeps the record of unwritten reads (log 20): the model's
choices. -/
def Obligations.RunOfCommandsEnds : Prop :=
  ∀ (commands : List Instr) (s : State), s.agenda = runTurns commands → s.pins.cmdValid = false → ¬ s.faultRecorded →
    ∃ t, stepTimes s.agenda.length s = .next t ∧ RunEnded commands (acceptedIn s.agenda.length s) true t ∧
      TableComplete t ∧ ∀ i, commands.getLast? = some i → t.rspCount.toNat = popcount i.value

/-! ### Constants and derived quantities -/

/-- R21: each mask has 16 bits set, repeats with period 2^(k+1), and its set bits are the low half of each period. -/
def Obligations.MasksFollowTheirLaw : Prop :=
  ∀ k : Fin 5, popcount (mask k) = 16 ∧
    (∀ j < 32, j + 2 ^ (k.val + 1) < 32 → (mask k).getLsbD j = (mask k).getLsbD (j + 2 ^ (k.val + 1))) ∧
    (∀ j < 32, (mask k).getLsbD j = decide (j % 2 ^ (k.val + 1) < 2 ^ k.val))

/-- The four lanes are the four bytes of the operand, lane 0 the least significant (20_memory.md section 2). -/
def Obligations.LanesAreTheBytes : Prop :=
  ∀ v : Word, (∀ j < 4, lane v j = v.extractLsb' (8 * j) 8) ∧ lane v 3 ++ lane v 2 ++ lane v 1 ++ lane v 0 = v

/-- One round turns fields of 2^k bits that hold the popcounts of the operand's fields into fields of twice the width
that do, with no carry between fields. The spec marks this (43_parallel.md section 2) as derived. -/
def Obligations.RoundSumsAdjacentFields : Prop :=
  ∀ (k : Fin 5) (operand v : Word),
    (∀ g < 32 / 2 ^ k.val, (field v k.val g).toNat = popcount (field operand k.val g)) →
    ∀ g < 32 / 2 ^ (k.val + 1),
      (field (parallelRound k v) (k.val + 1) g).toNat = popcount (field operand (k.val + 1) g) ∧
      (field (parallelRound k v) (k.val + 1) g).toNat =
        (field v k.val (2 * g)).toNat + (field v k.val (2 * g + 1)).toNat

/-- No addition of an iterate step wraps, in every state of the invariant. The spec marks this (44_controller.md
section 2, arithmetic laws) as derived. -/
def Obligations.NoAdditionWraps : Prop :=
  ∀ (h : History) (s : State), Inv h s → s.phase = .busy →
    (s.sel = 0#2 → s.idx < 32#6 → s.acc.toNat + (testedBit s.w s.idx.toNat).toNat ≤ 32 ∧ s.idx.toNat + 1 ≤ 32) ∧
    (s.sel = 1#2 → s.w ≠ 0#32 → s.acc.toNat + (testedBit s.w 0).toNat ≤ 32) ∧
    (s.sel = 2#2 → s.idx < 4#6 → ¬ s.faultRecorded →
      ∀ b, s.lutEntry (lane s.w s.idx.toNat) = some b → s.acc.toNat + b.toNat ≤ 32) ∧
    (s.sel = 3#2 → ∀ k : s.idx.toNat < 5,
      (s.w &&& mask ⟨s.idx.toNat, k⟩).toNat + ((s.w >>> (2 ^ s.idx.toNat)) &&& mask ⟨s.idx.toNat, k⟩).toNat < 2 ^ 32)

/-! ### The table -/

/-- R80: a LUTINIT step writes entry `INIT_IDX` from entry `INIT_IDX >> 1`, which is written, and touches nothing else;
none is enabled at 256; after a reset construction starts by itself unless the table is preloaded. -/
def Obligations.LutinitWritesTheNextEntry : Prop :=
  (∀ s : State, TableInv s →
    (s.initIdx.toNat < 256 → ∃ b : Byte,
      lutinitStep s = .next { s with lut := s.lut.write s.initIdx.toNat b, initIdx := s.initIdx + 1#9 } ∧
      (s.initIdx.toNat = 0 → b = 0#8) ∧
      (s.initIdx.toNat ≠ 0 → ∃ e, s.lut.read (s.initIdx.toNat / 2) = some e ∧
        b = e + BitVec.ofNat 8 (s.initIdx.toNat % 2))) ∧
    (s.initIdx.toNat = 256 → s.lutinitEnabled = false ∧ lutinitStep s = .next s)) ∧
  (∀ s : State, (resetEvent s).lutinitEnabled = !s.params.lutPreloaded)

/-- The LUTINIT steps left complete the table and change nothing else. The spec marks this (44_controller.md
section 1, after 256 steps) as derived. -/
def Obligations.ConstructionCompletesTheTable : Prop :=
  ∀ s : State, TableInv s → ∃ m : Memory,
    lutinitTimes (256 - s.initIdx.toNat) s = .next { s with lut := m, initIdx := 256#9 } ∧
    (∀ n < 256, m.read n = some (BitVec.ofNat 8 (popcount (BitVec.ofNat 8 n)))) ∧ m.wf

/-- R82: in the finished table the block of entries from 2^k on is the block below it, each plus 1. -/
def Obligations.FinishedTableDoubles : Prop :=
  ∀ s : State, TableComplete s → s.lut.read 0 = some 0#8 ∧
    ∀ k < 8, ∀ n < 2 ^ k, ∃ b, s.lut.read n = some b ∧ s.lut.read (2 ^ k + n) = some (b + 1#8)

/-- R26: `lut_ready` is 1 exactly when all 256 entries are written, once 1 it stays so until a reset, and it holds no
TABLE command back. -/
def Obligations.LutReadyMeansComplete : Prop :=
  (∀ s : State, (s.lutReady = true ↔ s.initIdx = 256#9) ∧
    (TableInv s → (s.lutReady = true ↔ ∀ n < 256, s.lut.read n ≠ none))) ∧
  (∀ s t : State, s.lutReady = true → s.resets = false → step s = .next t → t.lutReady = true) ∧
  (∀ (v : Word) (s : State), s.phase = .idle → ∃ t, exec (.table v) s = .next t ∧ t.phase = .busy ∧ t.sel = 2#2)

/-- A written entry keeps its value in every later state until the next reset, whoever steps (20_memory.md
section 3). -/
def Obligations.WrittenEntriesAreImmutable : Prop :=
  ∀ (s t : State) (n : Nat) (b : Byte), TableInv s → s.resets = false → step s = .next t →
    s.lut.read n = some b → t.lut.read n = some b

/-- Every step keeps the table's canonical form (the model's representation of the table, log 17). -/
def Obligations.StepKeepsMemoryForm : Prop :=
  ∀ s t : State, s.lut.wf → step s = .next t → t.lut.wf

/-! ### The invariant -/

/-- The state after reset satisfies the invariant, whatever operand the history names: none was accepted. -/
def Obligations.ResetStateSatisfiesInvariant : Prop :=
  ∀ operand : Word, Inv ⟨operand, false⟩ State.reset

/-- The reset event brings any state, a power-on state too, into the invariant (70_reset_and_hazards.md section 1). -/
def Obligations.ResetEventEstablishesInvariant : Prop :=
  ∀ (h : History) (s : State), s.resets = true → ∃ t, step s = .next t ∧ t.initialised = true ∧ Inv (h.after s) t

/-- Every step of every agent, in every order, keeps the laws of the state: the table holds popcounts below `INIT_IDX`
and nothing above, the working registers hold the partial count of the command in flight, and a valid result is the
popcount of the last accepted operand. The spec marks these laws (10_state.md section 6) as derived. -/
def Obligations.StepKeepsInvariant : Prop :=
  ∀ (h : History) (s t : State), Inv h s → step s = .next t → Inv (h.after s) t

/-- With a host that accepts TABLE commands only while `lut_ready` is 1, no step reads an unwritten entry and none
faults, and the duty stays kept (70_reset_and_hazards.md section 2, 20_memory.md section 3). -/
def Obligations.HostDutyPreventsUnwrittenReads : Prop :=
  ∀ s : State, TableInv s → s.tableDutyKept → s.keepsTableDuty →
    (∀ f, step s ≠ .fault f) ∧
    ∀ t, step s = .next t → TableInv t ∧ t.tableDutyKept ∧ t.unwrittenReads = s.unwrittenReads

/-- The mark of an unwritten read is never cleared by a later step, not by a reset either (60_exceptions.md
section 1; that the mark is a list of addresses is the model's choice, log 11 and 20). -/
def Obligations.FaultMarkIsNeverCleared : Prop :=
  ∀ s t : State, step s = .next t → ∃ l, t.unwrittenReads = s.unwrittenReads ++ l

/-- A preloaded table is complete, every entry written with its popcount, from its first reset on: the reset event
completes it and every later step keeps it so (10_state.md section 4). That the configuration is held in the state and
no step changes it is the model's reading (log 5 for `onUnwritten`, log 6 for `lutPreloaded`). -/
def Obligations.PreloadedTableStaysComplete : Prop :=
  ∀ s t : State, step s = .next t → t.params = s.params ∧
    ((s.params.lutPreloaded = true → TableComplete s) → t.params.lutPreloaded = true → TableComplete t) ∧
    (s.resets = true → t.params.lutPreloaded = true → TableComplete t)

/-! ### Reset -/

/-- R31: what the reset event leaves, by the table "Reset values", and that no step reads an unspecified register
before one has written it. An EXEC step while idle is the same whatever `SEL`, `W`, `ACC` and `IDX` hold and carries
`RES` through; no EXEC step reads `RES`, which it overwrites or carries through; the LUTINIT step carries all five
through; and `rsp_count` does not show `RES` while `rsp_valid` is 0. -/
def Obligations.ResetEventTakesResetValues : Prop :=
  (∀ s : State, s.resets = true → ∃ t, step s = .next t ∧
    t.phase = .idle ∧ t.resValid = false ∧
    (s.params.lutPreloaded = false → t.initIdx = 0#9 ∧ (∀ n, t.lut.read n = none) ∧ t.lutReady = false) ∧
    (s.params.lutPreloaded = true → t.initIdx = 256#9 ∧ t.lutReady = true ∧
      ∀ n < 256, t.lut.read n = some (BitVec.ofNat 8 (popcount (BitVec.ofNat 8 n)))) ∧
    t.cmdReady = true ∧ t.rspValid = false ∧
    mask 0 = 0x55555555#32 ∧ mask 1 = 0x33333333#32 ∧ mask 2 = 0x0F0F0F0F#32 ∧ mask 3 = 0x00FF00FF#32 ∧
    mask 4 = 0x0000FFFF#32) ∧
  (∀ (i : Instr) (s : State) (c : Select) (v a r : Word) (x : BitVec 6), s.phase = .idle →
    exec i (s.withDatapath c v a x r) = mapNext (fun u => u.withRes r) (exec i s)) ∧
  (∀ (i : Instr) (s : State) (r : Word),
    exec i (s.withRes r) = exec i s ∨ exec i (s.withRes r) = mapNext (fun u => u.withRes r) (exec i s)) ∧
  (∀ (s : State) (c : Select) (v a r : Word) (x : BitVec 6),
    lutinitStep (s.withDatapath c v a x r) = mapNext (fun u => u.withDatapath c v a x r) (lutinitStep s)) ∧
  (∀ (s : State) (r : Word), s.rspValid = false → (s.withRes r).rspCount = s.rspCount)

/-- While `rst` stays asserted neither EXEC nor LUTINIT steps, and releasing it changes nothing else
(70_reset_and_hazards.md section 1). -/
def Obligations.AssertedResetHoldsTheBlock : Prop :=
  (∀ s : State, s.initialised = true → s.pins.rst = true → (s.nextTurn = .exec ∨ s.nextTurn = .lutinit) →
    step s = .next s.dropTurn) ∧
  (∀ s : State, s.resets = true → ∃ t, step s = .next t ∧ t.pins.rst = true) ∧
  (∀ s : State, s.nextTurn = .host .releaseReset → step s = .next (s.dropTurn.setRst false))

/-- Before the first reset after power-on a step of EXEC or LUTINIT is refused by name (60_exceptions.md section 1;
that the model knows power-on by a field is its choice, log 7). -/
def Obligations.StepsBeforeFirstResetAreRefused : Prop :=
  ∀ s : State, s.initialised = false → (s.nextTurn = .exec ∨ s.nextTurn = .lutinit) → step s = .refused .notReset

/-! ### Frames and independence -/

/-- What an EXEC step on any command leaves unchanged: the table (every entry reads as before), `INIT_IDX`, the host's
wires, the configuration; while busy `SEL`, and the registers the strategy does not use; `RES` but for completion
(44_controller.md section 1, 20_memory.md section 1). -/
def Obligations.ExecFrame : Prop :=
  ∀ (i : Instr) (s t : State), exec i s = .next t →
    (∀ n, t.lut.read n = s.lut.read n) ∧ t.lut = s.lut ∧ t.initIdx = s.initIdx ∧ t.params = s.params ∧
    t.pins = s.pins ∧ t.agenda = s.agenda ∧ t.initialised = s.initialised ∧
    (t.phase = .busy → t.res = s.res) ∧
    (s.phase = .busy → t.sel = s.sel ∧ (s.sel = 0#2 ∨ s.sel = 2#2 → t.w = s.w) ∧ (s.sel = 1#2 → t.idx = s.idx) ∧
      (s.sel = 3#2 → t.acc = s.acc)) ∧
    (s.phase = .idle ∨ s.sel ≠ 2#2 → t.draws = s.draws ∧ t.unwrittenReads = s.unwrittenReads)

/-- What a LUTINIT step leaves unchanged: every entry but `INIT_IDX`, and every other element (60_exceptions.md
section 1). -/
def Obligations.LutinitFrame : Prop :=
  ∀ s t : State, lutinitStep s = .next t →
    (∀ n, n ≠ s.initIdx.toNat → t.lut.read n = s.lut.read n) ∧
    t.phase = s.phase ∧ t.sel = s.sel ∧ t.w = s.w ∧ t.acc = s.acc ∧ t.idx = s.idx ∧ t.res = s.res ∧
    t.resValid = s.resValid ∧ t.params = s.params ∧ t.pins = s.pins ∧ t.agenda = s.agenda ∧
    t.initialised = s.initialised

/-- No move of the host but reset changes an element of the block; a drive sets the command wires, and
reading the outputs changes none
(60_exceptions.md section 4). -/
def Obligations.HostMovesFrame : Prop :=
  ∀ (s : State) (m : HostMove), s.nextTurn = .host m → m ≠ .assertReset → ∃ t, step s = .next t ∧
    t.phase = s.phase ∧ t.sel = s.sel ∧ t.w = s.w ∧ t.acc = s.acc ∧ t.idx = s.idx ∧ t.res = s.res ∧
    t.resValid = s.resValid ∧ t.initIdx = s.initIdx ∧ t.lut = s.lut ∧ t.params = s.params ∧
    t.initialised = s.initialised ∧ t.unwrittenReads = s.unwrittenReads ∧
    (m = .read → t.pins = s.pins) ∧ (m = .releaseReset → t.pins = { s.pins with rst := false }) ∧
    (∀ valid c v, m = .drive valid c v → t.pins = ⟨s.pins.rst, valid, c, v⟩)

/-- An EXEC turn and a LUTINIT step may be taken in either order with the same outcome, but where the TABLE lookup
reads the very entry being written (60_exceptions.md section 1, item (c) of the simultaneous events). -/
def Obligations.ExecAndLutinitCommute : Prop :=
  ∀ s : State, TableInv s →
    (s.phase = .busy → s.sel = 2#2 → s.idx < 4#6 → (lane s.w s.idx.toNat).toNat ≠ s.initIdx.toNat) →
    andThen (execTurn s) lutinitStep = andThen (lutinitStep s) execTurn

/-- NAIVE1, NAIVE2 and PARALLEL neither read nor write the table or its counter: whatever those hold, the step is the
same (20_memory.md sections 1 and 3). -/
def Obligations.NonTableCommandsIgnoreTheTable : Prop :=
  ∀ (i : Instr) (s : State) (m : Memory) (n : BitVec 9), i.sel ≠ 2#2 →
    exec i { s with lut := m, initIdx := n } = mapNext (fun t => { t with lut := m, initIdx := n }) (exec i s)

/-! ### Outputs -/

/-- The four outputs are functions of the state (10_state.md section 5). Two points are the model's choices: the
unspecified `rsp_count` while `rsp_valid` is 0 is the free value at the number of draws so far (log 10), and the bound
of a valid count leaves out a TABLE result where an unwritten read is recorded (log 5), by a mark that a reset keeps
(log 20). -/
def Obligations.OutputsAreFunctionsOfTheState : Prop :=
  (∀ s : State, (s.cmdReady = true ↔ s.phase = .idle) ∧ s.rspValid = s.resValid ∧
    (s.resValid = true → s.rspCount = s.res) ∧ (s.resValid = false → s.rspCount = Config.unspecRspCount s.draws) ∧
    (s.lutReady = true ↔ s.initIdx = 256#9)) ∧
  (∀ (h : History) (s : State), Inv h s → s.rspValid = true → (s.sel = 2#2 → ¬ s.faultRecorded) →
    s.rspCount.toNat ≤ 32 ∧ ∀ j, 6 ≤ j → s.rspCount.getLsbD j = false)

/-- A valid result on the outputs is the popcount of the last accepted operand, with no fault recorded for TABLE
(30_encoding.md section 6, 10_state.md section 2). -/
def Obligations.ValidResultIsThePopcount : Prop :=
  ∀ (h : History) (s : State), Inv h s → s.rspValid = true → (s.sel = 2#2 → ¬ s.faultRecorded) →
    s.cmdReady = true ∧ s.rspCount.toNat = popcount h.operand ∧
    (s.rspCount.getLsbD 5 = true ↔ h.operand = 0xFFFFFFFF#32)
end

