-- ==== Sys2Proof/Laws/State.lean ====
section
/-! SUPPORT. What each named update of the state does to each field: one lemma per field per update. -/

namespace Sys2Proof.Machine

/-! The accept step (R74). -/

@[simp] theorem accept_phase (i : Instr) (s : State) : (accept i s).phase = .busy := rfl
@[simp] theorem accept_sel (i : Instr) (s : State) : (accept i s).sel = i.sel := rfl
@[simp] theorem accept_w (i : Instr) (s : State) : (accept i s).w = i.value := rfl
@[simp] theorem accept_acc (i : Instr) (s : State) : (accept i s).acc = 0#32 := rfl
@[simp] theorem accept_idx (i : Instr) (s : State) : (accept i s).idx = 0#6 := rfl
@[simp] theorem accept_res (i : Instr) (s : State) : (accept i s).res = s.res := rfl
@[simp] theorem accept_resValid (i : Instr) (s : State) : (accept i s).resValid = false := rfl
@[simp] theorem accept_initIdx (i : Instr) (s : State) : (accept i s).initIdx = s.initIdx := rfl
@[simp] theorem accept_lut (i : Instr) (s : State) : (accept i s).lut = s.lut := rfl
@[simp] theorem accept_params (i : Instr) (s : State) : (accept i s).params = s.params := rfl
@[simp] theorem accept_pins (i : Instr) (s : State) : (accept i s).pins = s.pins := rfl
@[simp] theorem accept_agenda (i : Instr) (s : State) : (accept i s).agenda = s.agenda := rfl
@[simp] theorem accept_initialised (i : Instr) (s : State) : (accept i s).initialised = s.initialised := rfl
@[simp] theorem accept_draws (i : Instr) (s : State) : (accept i s).draws = s.draws := rfl
@[simp] theorem accept_unwrittenReads (i : Instr) (s : State) : (accept i s).unwrittenReads = s.unwrittenReads := rfl

/-! The complete step (R76). -/

@[simp] theorem complete_phase (s : State) : (complete s).phase = .idle := rfl
@[simp] theorem complete_sel (s : State) : (complete s).sel = s.sel := rfl
@[simp] theorem complete_w (s : State) : (complete s).w = s.w := rfl
@[simp] theorem complete_acc (s : State) : (complete s).acc = s.acc := rfl
@[simp] theorem complete_idx (s : State) : (complete s).idx = s.idx := rfl
@[simp] theorem complete_res (s : State) : (complete s).res = s.resultMux := rfl
@[simp] theorem complete_resValid (s : State) : (complete s).resValid = true := rfl
@[simp] theorem complete_initIdx (s : State) : (complete s).initIdx = s.initIdx := rfl
@[simp] theorem complete_lut (s : State) : (complete s).lut = s.lut := rfl
@[simp] theorem complete_params (s : State) : (complete s).params = s.params := rfl
@[simp] theorem complete_pins (s : State) : (complete s).pins = s.pins := rfl
@[simp] theorem complete_agenda (s : State) : (complete s).agenda = s.agenda := rfl
@[simp] theorem complete_initialised (s : State) : (complete s).initialised = s.initialised := rfl
@[simp] theorem complete_draws (s : State) : (complete s).draws = s.draws := rfl
@[simp] theorem complete_unwrittenReads (s : State) : (complete s).unwrittenReads = s.unwrittenReads := rfl

/-! The NAIVE1 iterate step (R59). -/

@[simp] theorem naive1Iterate_phase (s : State) : (naive1Iterate s).phase = s.phase := rfl
@[simp] theorem naive1Iterate_sel (s : State) : (naive1Iterate s).sel = s.sel := rfl
@[simp] theorem naive1Iterate_w (s : State) : (naive1Iterate s).w = s.w := rfl
@[simp] theorem naive1Iterate_acc (s : State) : (naive1Iterate s).acc = s.acc + testedBit s.w s.idx.toNat := rfl
@[simp] theorem naive1Iterate_idx (s : State) : (naive1Iterate s).idx = s.idx + 1#6 := rfl
@[simp] theorem naive1Iterate_res (s : State) : (naive1Iterate s).res = s.res := rfl
@[simp] theorem naive1Iterate_resValid (s : State) : (naive1Iterate s).resValid = s.resValid := rfl
@[simp] theorem naive1Iterate_initIdx (s : State) : (naive1Iterate s).initIdx = s.initIdx := rfl
@[simp] theorem naive1Iterate_lut (s : State) : (naive1Iterate s).lut = s.lut := rfl
@[simp] theorem naive1Iterate_params (s : State) : (naive1Iterate s).params = s.params := rfl
@[simp] theorem naive1Iterate_pins (s : State) : (naive1Iterate s).pins = s.pins := rfl
@[simp] theorem naive1Iterate_agenda (s : State) : (naive1Iterate s).agenda = s.agenda := rfl
@[simp] theorem naive1Iterate_initialised (s : State) : (naive1Iterate s).initialised = s.initialised := rfl
@[simp] theorem naive1Iterate_draws (s : State) : (naive1Iterate s).draws = s.draws := rfl
@[simp] theorem naive1Iterate_unwrittenReads (s : State) : (naive1Iterate s).unwrittenReads = s.unwrittenReads := rfl

/-! The NAIVE2 iterate step (R62). -/

@[simp] theorem naive2Iterate_phase (s : State) : (naive2Iterate s).phase = s.phase := rfl
@[simp] theorem naive2Iterate_sel (s : State) : (naive2Iterate s).sel = s.sel := rfl
@[simp] theorem naive2Iterate_w (s : State) : (naive2Iterate s).w = s.w >>> 1 := rfl
@[simp] theorem naive2Iterate_acc (s : State) : (naive2Iterate s).acc = s.acc + testedBit s.w 0 := rfl
@[simp] theorem naive2Iterate_idx (s : State) : (naive2Iterate s).idx = s.idx := rfl
@[simp] theorem naive2Iterate_res (s : State) : (naive2Iterate s).res = s.res := rfl
@[simp] theorem naive2Iterate_resValid (s : State) : (naive2Iterate s).resValid = s.resValid := rfl
@[simp] theorem naive2Iterate_initIdx (s : State) : (naive2Iterate s).initIdx = s.initIdx := rfl
@[simp] theorem naive2Iterate_lut (s : State) : (naive2Iterate s).lut = s.lut := rfl
@[simp] theorem naive2Iterate_params (s : State) : (naive2Iterate s).params = s.params := rfl
@[simp] theorem naive2Iterate_pins (s : State) : (naive2Iterate s).pins = s.pins := rfl
@[simp] theorem naive2Iterate_agenda (s : State) : (naive2Iterate s).agenda = s.agenda := rfl
@[simp] theorem naive2Iterate_initialised (s : State) : (naive2Iterate s).initialised = s.initialised := rfl
@[simp] theorem naive2Iterate_draws (s : State) : (naive2Iterate s).draws = s.draws := rfl
@[simp] theorem naive2Iterate_unwrittenReads (s : State) : (naive2Iterate s).unwrittenReads = s.unwrittenReads := rfl

/-! A looked-up entry added (R65). -/

@[simp] theorem addEntry_phase (s : State) (b : Byte) : (s.addEntry b).phase = s.phase := rfl
@[simp] theorem addEntry_sel (s : State) (b : Byte) : (s.addEntry b).sel = s.sel := rfl
@[simp] theorem addEntry_w (s : State) (b : Byte) : (s.addEntry b).w = s.w := rfl
@[simp] theorem addEntry_acc (s : State) (b : Byte) : (s.addEntry b).acc = s.acc + b.setWidth 32 := rfl
@[simp] theorem addEntry_idx (s : State) (b : Byte) : (s.addEntry b).idx = s.idx + 1#6 := rfl
@[simp] theorem addEntry_res (s : State) (b : Byte) : (s.addEntry b).res = s.res := rfl
@[simp] theorem addEntry_resValid (s : State) (b : Byte) : (s.addEntry b).resValid = s.resValid := rfl
@[simp] theorem addEntry_initIdx (s : State) (b : Byte) : (s.addEntry b).initIdx = s.initIdx := rfl
@[simp] theorem addEntry_lut (s : State) (b : Byte) : (s.addEntry b).lut = s.lut := rfl
@[simp] theorem addEntry_params (s : State) (b : Byte) : (s.addEntry b).params = s.params := rfl
@[simp] theorem addEntry_pins (s : State) (b : Byte) : (s.addEntry b).pins = s.pins := rfl
@[simp] theorem addEntry_agenda (s : State) (b : Byte) : (s.addEntry b).agenda = s.agenda := rfl
@[simp] theorem addEntry_initialised (s : State) (b : Byte) : (s.addEntry b).initialised = s.initialised := rfl
@[simp] theorem addEntry_draws (s : State) (b : Byte) : (s.addEntry b).draws = s.draws := rfl
@[simp] theorem addEntry_unwrittenReads (s : State) (b : Byte) : (s.addEntry b).unwrittenReads = s.unwrittenReads := rfl

/-! An unwritten read recorded (R92). -/

@[simp] theorem noteUnwritten_phase (s : State) (a : Byte) : (s.noteUnwritten a).phase = s.phase := rfl
@[simp] theorem noteUnwritten_sel (s : State) (a : Byte) : (s.noteUnwritten a).sel = s.sel := rfl
@[simp] theorem noteUnwritten_w (s : State) (a : Byte) : (s.noteUnwritten a).w = s.w := rfl
@[simp] theorem noteUnwritten_acc (s : State) (a : Byte) : (s.noteUnwritten a).acc = s.acc := rfl
@[simp] theorem noteUnwritten_idx (s : State) (a : Byte) : (s.noteUnwritten a).idx = s.idx := rfl
@[simp] theorem noteUnwritten_res (s : State) (a : Byte) : (s.noteUnwritten a).res = s.res := rfl
@[simp] theorem noteUnwritten_resValid (s : State) (a : Byte) : (s.noteUnwritten a).resValid = s.resValid := rfl
@[simp] theorem noteUnwritten_initIdx (s : State) (a : Byte) : (s.noteUnwritten a).initIdx = s.initIdx := rfl
@[simp] theorem noteUnwritten_lut (s : State) (a : Byte) : (s.noteUnwritten a).lut = s.lut := rfl
@[simp] theorem noteUnwritten_params (s : State) (a : Byte) : (s.noteUnwritten a).params = s.params := rfl
@[simp] theorem noteUnwritten_pins (s : State) (a : Byte) : (s.noteUnwritten a).pins = s.pins := rfl
@[simp] theorem noteUnwritten_agenda (s : State) (a : Byte) : (s.noteUnwritten a).agenda = s.agenda := rfl
@[simp] theorem noteUnwritten_initialised (s : State) (a : Byte) : (s.noteUnwritten a).initialised = s.initialised := rfl
@[simp] theorem noteUnwritten_draws (s : State) (a : Byte) : (s.noteUnwritten a).draws = s.draws + 1 := rfl
@[simp] theorem noteUnwritten_unwrittenReads (s : State) (a : Byte) : (s.noteUnwritten a).unwrittenReads = s.unwrittenReads ++ [a] := rfl

/-! One table entry written (R80). -/

@[simp] theorem appendEntry_phase (s : State) (b : Byte) : (s.appendEntry b).phase = s.phase := rfl
@[simp] theorem appendEntry_sel (s : State) (b : Byte) : (s.appendEntry b).sel = s.sel := rfl
@[simp] theorem appendEntry_w (s : State) (b : Byte) : (s.appendEntry b).w = s.w := rfl
@[simp] theorem appendEntry_acc (s : State) (b : Byte) : (s.appendEntry b).acc = s.acc := rfl
@[simp] theorem appendEntry_idx (s : State) (b : Byte) : (s.appendEntry b).idx = s.idx := rfl
@[simp] theorem appendEntry_res (s : State) (b : Byte) : (s.appendEntry b).res = s.res := rfl
@[simp] theorem appendEntry_resValid (s : State) (b : Byte) : (s.appendEntry b).resValid = s.resValid := rfl
@[simp] theorem appendEntry_initIdx (s : State) (b : Byte) : (s.appendEntry b).initIdx = s.initIdx + 1#9 := rfl
@[simp] theorem appendEntry_lut (s : State) (b : Byte) : (s.appendEntry b).lut = s.lut.write s.initIdx.toNat b := rfl
@[simp] theorem appendEntry_params (s : State) (b : Byte) : (s.appendEntry b).params = s.params := rfl
@[simp] theorem appendEntry_pins (s : State) (b : Byte) : (s.appendEntry b).pins = s.pins := rfl
@[simp] theorem appendEntry_agenda (s : State) (b : Byte) : (s.appendEntry b).agenda = s.agenda := rfl
@[simp] theorem appendEntry_initialised (s : State) (b : Byte) : (s.appendEntry b).initialised = s.initialised := rfl
@[simp] theorem appendEntry_draws (s : State) (b : Byte) : (s.appendEntry b).draws = s.draws := rfl
@[simp] theorem appendEntry_unwrittenReads (s : State) (b : Byte) : (s.appendEntry b).unwrittenReads = s.unwrittenReads := rfl

/-! The reset event (R31, R101). -/

@[simp] theorem resetEvent_phase (s : State) : (resetEvent s).phase = .idle := rfl
@[simp] theorem resetEvent_sel (s : State) : (resetEvent s).sel = Config.unspecSel s.draws := rfl
@[simp] theorem resetEvent_w (s : State) : (resetEvent s).w = Config.unspecW s.draws := rfl
@[simp] theorem resetEvent_acc (s : State) : (resetEvent s).acc = Config.unspecAcc s.draws := rfl
@[simp] theorem resetEvent_idx (s : State) : (resetEvent s).idx = Config.unspecIdx s.draws := rfl
@[simp] theorem resetEvent_res (s : State) : (resetEvent s).res = Config.unspecRes s.draws := rfl
@[simp] theorem resetEvent_resValid (s : State) : (resetEvent s).resValid = false := rfl
@[simp] theorem resetEvent_initIdx (s : State) : (resetEvent s).initIdx = if s.params.lutPreloaded then 256#9 else 0#9 := rfl
@[simp] theorem resetEvent_lut (s : State) : (resetEvent s).lut = if s.params.lutPreloaded then fullTable else [] := rfl
@[simp] theorem resetEvent_params (s : State) : (resetEvent s).params = s.params := rfl
@[simp] theorem resetEvent_pins (s : State) : (resetEvent s).pins = s.pins := rfl
@[simp] theorem resetEvent_agenda (s : State) : (resetEvent s).agenda = s.agenda := rfl
@[simp] theorem resetEvent_initialised (s : State) : (resetEvent s).initialised = true := rfl
@[simp] theorem resetEvent_draws (s : State) : (resetEvent s).draws = s.draws + 1 := rfl
@[simp] theorem resetEvent_unwrittenReads (s : State) : (resetEvent s).unwrittenReads = s.unwrittenReads := rfl

/-! The wire `rst` (R101). -/

@[simp] theorem setRst_phase (s : State) (l : Bool) : (s.setRst l).phase = s.phase := rfl
@[simp] theorem setRst_sel (s : State) (l : Bool) : (s.setRst l).sel = s.sel := rfl
@[simp] theorem setRst_w (s : State) (l : Bool) : (s.setRst l).w = s.w := rfl
@[simp] theorem setRst_acc (s : State) (l : Bool) : (s.setRst l).acc = s.acc := rfl
@[simp] theorem setRst_idx (s : State) (l : Bool) : (s.setRst l).idx = s.idx := rfl
@[simp] theorem setRst_res (s : State) (l : Bool) : (s.setRst l).res = s.res := rfl
@[simp] theorem setRst_resValid (s : State) (l : Bool) : (s.setRst l).resValid = s.resValid := rfl
@[simp] theorem setRst_initIdx (s : State) (l : Bool) : (s.setRst l).initIdx = s.initIdx := rfl
@[simp] theorem setRst_lut (s : State) (l : Bool) : (s.setRst l).lut = s.lut := rfl
@[simp] theorem setRst_params (s : State) (l : Bool) : (s.setRst l).params = s.params := rfl
@[simp] theorem setRst_pins (s : State) (l : Bool) : (s.setRst l).pins = { s.pins with rst := l } := rfl
@[simp] theorem setRst_agenda (s : State) (l : Bool) : (s.setRst l).agenda = s.agenda := rfl
@[simp] theorem setRst_initialised (s : State) (l : Bool) : (s.setRst l).initialised = s.initialised := rfl
@[simp] theorem setRst_draws (s : State) (l : Bool) : (s.setRst l).draws = s.draws := rfl
@[simp] theorem setRst_unwrittenReads (s : State) (l : Bool) : (s.setRst l).unwrittenReads = s.unwrittenReads := rfl

/-! The command wires (R98). -/

@[simp] theorem drive_phase (s : State) (v : Bool) (c : Select) (x : Word) : (s.drive v c x).phase = s.phase := rfl
@[simp] theorem drive_sel (s : State) (v : Bool) (c : Select) (x : Word) : (s.drive v c x).sel = s.sel := rfl
@[simp] theorem drive_w (s : State) (v : Bool) (c : Select) (x : Word) : (s.drive v c x).w = s.w := rfl
@[simp] theorem drive_acc (s : State) (v : Bool) (c : Select) (x : Word) : (s.drive v c x).acc = s.acc := rfl
@[simp] theorem drive_idx (s : State) (v : Bool) (c : Select) (x : Word) : (s.drive v c x).idx = s.idx := rfl
@[simp] theorem drive_res (s : State) (v : Bool) (c : Select) (x : Word) : (s.drive v c x).res = s.res := rfl
@[simp] theorem drive_resValid (s : State) (v : Bool) (c : Select) (x : Word) : (s.drive v c x).resValid = s.resValid := rfl
@[simp] theorem drive_initIdx (s : State) (v : Bool) (c : Select) (x : Word) : (s.drive v c x).initIdx = s.initIdx := rfl
@[simp] theorem drive_lut (s : State) (v : Bool) (c : Select) (x : Word) : (s.drive v c x).lut = s.lut := rfl
@[simp] theorem drive_params (s : State) (v : Bool) (c : Select) (x : Word) : (s.drive v c x).params = s.params := rfl
@[simp] theorem drive_pins (s : State) (v : Bool) (c : Select) (x : Word) : (s.drive v c x).pins = { s.pins with cmdValid := v, cmdSel := c, cmdValue := x } := rfl
@[simp] theorem drive_agenda (s : State) (v : Bool) (c : Select) (x : Word) : (s.drive v c x).agenda = s.agenda := rfl
@[simp] theorem drive_initialised (s : State) (v : Bool) (c : Select) (x : Word) : (s.drive v c x).initialised = s.initialised := rfl
@[simp] theorem drive_draws (s : State) (v : Bool) (c : Select) (x : Word) : (s.drive v c x).draws = s.draws := rfl
@[simp] theorem drive_unwrittenReads (s : State) (v : Bool) (c : Select) (x : Word) : (s.drive v c x).unwrittenReads = s.unwrittenReads := rfl

/-! A free value used up. -/

@[simp] theorem drawOne_phase (s : State) : (s.drawOne).phase = s.phase := rfl
@[simp] theorem drawOne_sel (s : State) : (s.drawOne).sel = s.sel := rfl
@[simp] theorem drawOne_w (s : State) : (s.drawOne).w = s.w := rfl
@[simp] theorem drawOne_acc (s : State) : (s.drawOne).acc = s.acc := rfl
@[simp] theorem drawOne_idx (s : State) : (s.drawOne).idx = s.idx := rfl
@[simp] theorem drawOne_res (s : State) : (s.drawOne).res = s.res := rfl
@[simp] theorem drawOne_resValid (s : State) : (s.drawOne).resValid = s.resValid := rfl
@[simp] theorem drawOne_initIdx (s : State) : (s.drawOne).initIdx = s.initIdx := rfl
@[simp] theorem drawOne_lut (s : State) : (s.drawOne).lut = s.lut := rfl
@[simp] theorem drawOne_params (s : State) : (s.drawOne).params = s.params := rfl
@[simp] theorem drawOne_pins (s : State) : (s.drawOne).pins = s.pins := rfl
@[simp] theorem drawOne_agenda (s : State) : (s.drawOne).agenda = s.agenda := rfl
@[simp] theorem drawOne_initialised (s : State) : (s.drawOne).initialised = s.initialised := rfl
@[simp] theorem drawOne_draws (s : State) : (s.drawOne).draws = s.draws + 1 := rfl
@[simp] theorem drawOne_unwrittenReads (s : State) : (s.drawOne).unwrittenReads = s.unwrittenReads := rfl

/-! The presentation taken (log 8). -/

@[simp] theorem takeCommand_phase (s : State) : (s.takeCommand).phase = s.phase := rfl
@[simp] theorem takeCommand_sel (s : State) : (s.takeCommand).sel = s.sel := rfl
@[simp] theorem takeCommand_w (s : State) : (s.takeCommand).w = s.w := rfl
@[simp] theorem takeCommand_acc (s : State) : (s.takeCommand).acc = s.acc := rfl
@[simp] theorem takeCommand_idx (s : State) : (s.takeCommand).idx = s.idx := rfl
@[simp] theorem takeCommand_res (s : State) : (s.takeCommand).res = s.res := rfl
@[simp] theorem takeCommand_resValid (s : State) : (s.takeCommand).resValid = s.resValid := rfl
@[simp] theorem takeCommand_initIdx (s : State) : (s.takeCommand).initIdx = s.initIdx := rfl
@[simp] theorem takeCommand_lut (s : State) : (s.takeCommand).lut = s.lut := rfl
@[simp] theorem takeCommand_params (s : State) : (s.takeCommand).params = s.params := rfl
@[simp] theorem takeCommand_pins (s : State) : (s.takeCommand).pins = { s.pins with cmdValid := false } := rfl
@[simp] theorem takeCommand_agenda (s : State) : (s.takeCommand).agenda = s.agenda := rfl
@[simp] theorem takeCommand_initialised (s : State) : (s.takeCommand).initialised = s.initialised := rfl
@[simp] theorem takeCommand_draws (s : State) : (s.takeCommand).draws = s.draws := rfl
@[simp] theorem takeCommand_unwrittenReads (s : State) : (s.takeCommand).unwrittenReads = s.unwrittenReads := rfl

/-! A turn taken off the agenda (R10). -/

@[simp] theorem dropTurn_phase (s : State) : (s.dropTurn).phase = s.phase := rfl
@[simp] theorem dropTurn_sel (s : State) : (s.dropTurn).sel = s.sel := rfl
@[simp] theorem dropTurn_w (s : State) : (s.dropTurn).w = s.w := rfl
@[simp] theorem dropTurn_acc (s : State) : (s.dropTurn).acc = s.acc := rfl
@[simp] theorem dropTurn_idx (s : State) : (s.dropTurn).idx = s.idx := rfl
@[simp] theorem dropTurn_res (s : State) : (s.dropTurn).res = s.res := rfl
@[simp] theorem dropTurn_resValid (s : State) : (s.dropTurn).resValid = s.resValid := rfl
@[simp] theorem dropTurn_initIdx (s : State) : (s.dropTurn).initIdx = s.initIdx := rfl
@[simp] theorem dropTurn_lut (s : State) : (s.dropTurn).lut = s.lut := rfl
@[simp] theorem dropTurn_params (s : State) : (s.dropTurn).params = s.params := rfl
@[simp] theorem dropTurn_pins (s : State) : (s.dropTurn).pins = s.pins := rfl
@[simp] theorem dropTurn_agenda (s : State) : (s.dropTurn).agenda = s.agenda.tail := rfl
@[simp] theorem dropTurn_initialised (s : State) : (s.dropTurn).initialised = s.initialised := rfl
@[simp] theorem dropTurn_draws (s : State) : (s.dropTurn).draws = s.draws := rfl
@[simp] theorem dropTurn_unwrittenReads (s : State) : (s.dropTurn).unwrittenReads = s.unwrittenReads := rfl

/-! The registers R31 leaves unspecified. -/

@[simp] theorem withDatapath_phase (s : State) (c : Select) (v a : Word) (x : BitVec 6) (r : Word) : (s.withDatapath c v a x r).phase = s.phase := rfl
@[simp] theorem withDatapath_sel (s : State) (c : Select) (v a : Word) (x : BitVec 6) (r : Word) : (s.withDatapath c v a x r).sel = c := rfl
@[simp] theorem withDatapath_w (s : State) (c : Select) (v a : Word) (x : BitVec 6) (r : Word) : (s.withDatapath c v a x r).w = v := rfl
@[simp] theorem withDatapath_acc (s : State) (c : Select) (v a : Word) (x : BitVec 6) (r : Word) : (s.withDatapath c v a x r).acc = a := rfl
@[simp] theorem withDatapath_idx (s : State) (c : Select) (v a : Word) (x : BitVec 6) (r : Word) : (s.withDatapath c v a x r).idx = x := rfl
@[simp] theorem withDatapath_res (s : State) (c : Select) (v a : Word) (x : BitVec 6) (r : Word) : (s.withDatapath c v a x r).res = r := rfl
@[simp] theorem withDatapath_resValid (s : State) (c : Select) (v a : Word) (x : BitVec 6) (r : Word) : (s.withDatapath c v a x r).resValid = s.resValid := rfl
@[simp] theorem withDatapath_initIdx (s : State) (c : Select) (v a : Word) (x : BitVec 6) (r : Word) : (s.withDatapath c v a x r).initIdx = s.initIdx := rfl
@[simp] theorem withDatapath_lut (s : State) (c : Select) (v a : Word) (x : BitVec 6) (r : Word) : (s.withDatapath c v a x r).lut = s.lut := rfl
@[simp] theorem withDatapath_params (s : State) (c : Select) (v a : Word) (x : BitVec 6) (r : Word) : (s.withDatapath c v a x r).params = s.params := rfl
@[simp] theorem withDatapath_pins (s : State) (c : Select) (v a : Word) (x : BitVec 6) (r : Word) : (s.withDatapath c v a x r).pins = s.pins := rfl
@[simp] theorem withDatapath_agenda (s : State) (c : Select) (v a : Word) (x : BitVec 6) (r : Word) : (s.withDatapath c v a x r).agenda = s.agenda := rfl
@[simp] theorem withDatapath_initialised (s : State) (c : Select) (v a : Word) (x : BitVec 6) (r : Word) : (s.withDatapath c v a x r).initialised = s.initialised := rfl
@[simp] theorem withDatapath_draws (s : State) (c : Select) (v a : Word) (x : BitVec 6) (r : Word) : (s.withDatapath c v a x r).draws = s.draws := rfl
@[simp] theorem withDatapath_unwrittenReads (s : State) (c : Select) (v a : Word) (x : BitVec 6) (r : Word) : (s.withDatapath c v a x r).unwrittenReads = s.unwrittenReads := rfl

/-! `RES` alone (R18). -/

@[simp] theorem withRes_phase (s : State) (r : Word) : (s.withRes r).phase = s.phase := rfl
@[simp] theorem withRes_sel (s : State) (r : Word) : (s.withRes r).sel = s.sel := rfl
@[simp] theorem withRes_w (s : State) (r : Word) : (s.withRes r).w = s.w := rfl
@[simp] theorem withRes_acc (s : State) (r : Word) : (s.withRes r).acc = s.acc := rfl
@[simp] theorem withRes_idx (s : State) (r : Word) : (s.withRes r).idx = s.idx := rfl
@[simp] theorem withRes_res (s : State) (r : Word) : (s.withRes r).res = r := rfl
@[simp] theorem withRes_resValid (s : State) (r : Word) : (s.withRes r).resValid = s.resValid := rfl
@[simp] theorem withRes_initIdx (s : State) (r : Word) : (s.withRes r).initIdx = s.initIdx := rfl
@[simp] theorem withRes_lut (s : State) (r : Word) : (s.withRes r).lut = s.lut := rfl
@[simp] theorem withRes_params (s : State) (r : Word) : (s.withRes r).params = s.params := rfl
@[simp] theorem withRes_pins (s : State) (r : Word) : (s.withRes r).pins = s.pins := rfl
@[simp] theorem withRes_agenda (s : State) (r : Word) : (s.withRes r).agenda = s.agenda := rfl
@[simp] theorem withRes_initialised (s : State) (r : Word) : (s.withRes r).initialised = s.initialised := rfl
@[simp] theorem withRes_draws (s : State) (r : Word) : (s.withRes r).draws = s.draws := rfl
@[simp] theorem withRes_unwrittenReads (s : State) (r : Word) : (s.withRes r).unwrittenReads = s.unwrittenReads := rfl

/-! The PARALLEL iterate step (R69), enabled below 5. -/

theorem parallelIterate_of_lt (s : State) (h : s.idx.toNat < 5) : parallelIterate s =
    { s with w := parallelRound ⟨s.idx.toNat, h⟩ s.w, idx := s.idx + 1#6 } := dif_pos h

@[simp] theorem parallelIterate_phase (s : State) : (parallelIterate s).phase = s.phase := by
  unfold parallelIterate; split <;> rfl
@[simp] theorem parallelIterate_sel (s : State) : (parallelIterate s).sel = s.sel := by
  unfold parallelIterate; split <;> rfl
@[simp] theorem parallelIterate_acc (s : State) : (parallelIterate s).acc = s.acc := by
  unfold parallelIterate; split <;> rfl
@[simp] theorem parallelIterate_res (s : State) : (parallelIterate s).res = s.res := by
  unfold parallelIterate; split <;> rfl
@[simp] theorem parallelIterate_resValid (s : State) : (parallelIterate s).resValid = s.resValid := by
  unfold parallelIterate; split <;> rfl
@[simp] theorem parallelIterate_initIdx (s : State) : (parallelIterate s).initIdx = s.initIdx := by
  unfold parallelIterate; split <;> rfl
@[simp] theorem parallelIterate_lut (s : State) : (parallelIterate s).lut = s.lut := by
  unfold parallelIterate; split <;> rfl
@[simp] theorem parallelIterate_params (s : State) : (parallelIterate s).params = s.params := by
  unfold parallelIterate; split <;> rfl
@[simp] theorem parallelIterate_pins (s : State) : (parallelIterate s).pins = s.pins := by
  unfold parallelIterate; split <;> rfl
@[simp] theorem parallelIterate_agenda (s : State) : (parallelIterate s).agenda = s.agenda := by
  unfold parallelIterate; split <;> rfl
@[simp] theorem parallelIterate_initialised (s : State) : (parallelIterate s).initialised = s.initialised := by
  unfold parallelIterate; split <;> rfl
@[simp] theorem parallelIterate_draws (s : State) : (parallelIterate s).draws = s.draws := by
  unfold parallelIterate; split <;> rfl
@[simp] theorem parallelIterate_unwrittenReads (s : State) : (parallelIterate s).unwrittenReads = s.unwrittenReads := by
  unfold parallelIterate; split <;> rfl

end Sys2Proof.Machine
end

