-- ==== Sys2Proof/Laws/Memory.lean ====
section
/-! SUPPORT. The byte table as a memory: reads after writes, and the canonical form. -/

namespace Sys2Proof.Machine

theorem read_write_same (m : Memory) (a : Nat) (b : Byte) : (m.write a b).read a = some b := by
  induction m with
  | nil => simp [Memory.write, Memory.read]
  | cons c m ih =>
    obtain ⟨c, d⟩ := c
    simp only [Memory.write]
    split
    · simp [Memory.read]
    · split
      · simp [Memory.read]
      · simp_all [Memory.read]

theorem read_write_other (m : Memory) (a a' : Nat) (b : Byte) (h : a' ≠ a) : (m.write a b).read a' = m.read a' := by
  induction m with
  | nil => simp [Memory.write, Memory.read, h]
  | cons c m ih =>
    obtain ⟨c, d⟩ := c
    simp only [Memory.write]
    split
    · simp [Memory.read, h]
    · split
      · subst_vars; simp [Memory.read, h]
      · simp_all [Memory.read]

theorem mem_write (m : Memory) (a : Nat) (b : Byte) (c : Host.Cell) (h : c ∈ m.write a b) : c = (a, b) ∨ c ∈ m := by
  induction m with
  | nil => simpa [Memory.write] using h
  | cons e m ih =>
    obtain ⟨e, d⟩ := e
    simp only [Memory.write] at h
    split at h
    · simpa using h
    · split at h
      · rcases List.mem_cons.mp h with h | h
        · exact .inl h
        · exact .inr (List.mem_cons_of_mem _ h)
      · rcases List.mem_cons.mp h with h | h
        · exact .inr (h ▸ List.mem_cons_self)
        · exact (ih h).imp_right (List.mem_cons_of_mem _)

/-- A write at a table address keeps the canonical form. -/
theorem write_wf (m : Memory) (a : Nat) (b : Byte) (ha : a < 256) (h : m.wf) : (m.write a b).wf := by
  refine ⟨?_, fun c hc => ?_⟩
  · induction m with
    | nil => simp [Memory.write]
    | cons e m ih =>
      obtain ⟨e, d⟩ := e
      obtain ⟨hp, hb⟩ := h
      rw [List.pairwise_cons] at hp
      have ih := ih ⟨hp.2, fun c hc => hb c (List.mem_cons_of_mem _ hc)⟩
      simp only [Memory.write]
      split
      next hlt =>
        refine List.pairwise_cons.mpr ⟨fun x hx => ?_, List.pairwise_cons.mpr hp⟩
        rcases List.mem_cons.mp hx with rfl | hx
        · exact hlt
        · exact lt_trans hlt (hp.1 x hx)
      next hlt =>
        split
        next heq => exact List.pairwise_cons.mpr ⟨fun x hx => heq ▸ hp.1 x hx, hp.2⟩
        next hne =>
          refine List.pairwise_cons.mpr ⟨fun x hx => ?_, ih⟩
          rcases mem_write m a b x hx with rfl | hx
          · show e < a; omega
          · exact hp.1 x hx
  · rcases mem_write m a b c hc with rfl | hc
    · exact ha
    · exact h.2 c hc

/-- An address above every listed one holds nothing. -/
theorem read_eq_none (m : Memory) (a : Nat) (h : ∀ c ∈ m, c.1 ≠ a) : m.read a = none := by
  induction m with
  | nil => rfl
  | cons c m ih =>
    obtain ⟨c, d⟩ := c
    have hc : a ≠ c := fun e => h (c, d) List.mem_cons_self e.symm
    simp only [Memory.read, hc, if_false]
    exact ih fun x hx => h x (List.mem_cons_of_mem _ hx)

/-- In canonical form nothing is held outside the 256 addresses (R33). -/
theorem read_none_of_wf (m : Memory) (a : Nat) (h : m.wf) (ha : 256 ≤ a) : m.read a = none :=
  read_eq_none m a fun c hc e => absurd (h.2 c hc) (by omega)

theorem fullTable_wf : fullTable.wf := by
  refine ⟨?_, fun c hc => ?_⟩
  · exact List.pairwise_map.mpr List.pairwise_lt_range
  · obtain ⟨n, hn, rfl⟩ := List.mem_map.mp hc
    exact List.mem_range.mp hn

theorem read_map_range (f : Nat → Byte) (l : List Nat) (a : Nat) (h : a ∈ l) :
    Memory.read (l.map fun n => (n, f n)) a = some (f a) := by
  induction l with
  | nil => simp at h
  | cons n l ih =>
    simp only [List.map_cons, Memory.read]
    split
    next e => rw [e]
    next e => exact ih ((List.mem_cons.mp h).resolve_left e)

/-- The finished table (R23). -/
theorem fullTable_read (n : Nat) :
    fullTable.read n = if n < 256 then some (BitVec.ofNat 8 (popcount (BitVec.ofNat 8 n))) else none := by
  split
  next h => exact read_map_range (fun n => BitVec.ofNat 8 (popcount (BitVec.ofNat 8 n))) _ _ (List.mem_range.mpr h)
  next h => exact read_none_of_wf _ _ fullTable_wf (by omega)

theorem lutEntry_of_lt (s : State) (a : Byte) (h : a.toNat < s.initIdx.toNat) : s.lutEntry a = s.lut.read a.toNat :=
  if_pos h

theorem lutEntry_of_le (s : State) (a : Byte) (h : s.initIdx.toNat ≤ a.toNat) : s.lutEntry a = none :=
  if_neg (by omega)

end Sys2Proof.Machine
end

