-- ==== Sys2Proof/Laws/Ops.lean ====
section
/-! SUPPORT. For each shared operation, once, everything it can do. -/

namespace Sys2Proof.Machine

/-- A read of the table that answers gives the entry and changes nothing, or an unspecified byte and the mark. -/
theorem lutLoad_cases {s t : State} {a b : Byte} (h : lutLoad s a = .ok (b, t)) :
    (s.lutEntry a = some b ∧ t = s) ∨
    (s.lutEntry a = none ∧ s.params.onUnwritten = .goOn ∧ b = Config.unspecEntry s.draws ∧ t = s.noteUnwritten a) := by
  unfold lutLoad at h
  split at h
  next e he =>
    cases h
    exact .inl ⟨he, rfl⟩
  next he =>
    split at h
    next hp =>
      cases h
      exact .inr ⟨he, hp, rfl, rfl⟩
    next hp => cases h

/-- A read of the table that faults is a read of an unwritten entry where the configuration asks for the fault. -/
theorem lutLoad_fault {s : State} {a : Byte} {f : Fault} (h : lutLoad s a = .error f) :
    s.lutEntry a = none ∧ s.params.onUnwritten = .fault ∧ f = .lutEntryUnwritten a := by
  unfold lutLoad at h
  split at h
  next e he => cases h
  next he =>
    split at h
    next hp => cases h
    next hp =>
      cases h
      exact ⟨he, hp, rfl⟩

/-- One EXEC step on a command: accept, wait, iterate, complete, or no enabled step (R74, R75, R76). -/
theorem strategyStep_cases {i : Instr} {more finished : Bool} {iterate : StepResult} {s t : State}
    (h : strategyStep i more finished iterate s = .next t) :
    (s.phase = .idle ∧ t = accept i s) ∨
    (s.phase = .busy ∧ s.sel ≠ i.sel ∧ t = s) ∨
    (s.phase = .busy ∧ s.sel = i.sel ∧ more = true ∧ iterate = .next t) ∨
    (s.phase = .busy ∧ s.sel = i.sel ∧ more = false ∧ finished = true ∧ t = complete s) ∨
    (s.phase = .busy ∧ s.sel = i.sel ∧ more = false ∧ finished = false ∧ t = s) := by
  unfold strategyStep at h
  cases hp : s.phase with
  | idle =>
    rw [hp] at h
    cases h
    exact .inl ⟨rfl, rfl⟩
  | busy =>
    rw [hp] at h
    by_cases hs : s.sel = i.sel
    · cases more <;> cases finished <;> simp_all
    · simp_all

/-- A TABLE iterate step that answers adds the entry, or the unspecified byte under the mark (R65). -/
theorem tableIterate_cases {s t : State} (h : tableIterate s = .next t) :
    (∃ b, s.lutEntry s.laneAddr = some b ∧ t = s.addEntry b) ∨
    (s.lutEntry s.laneAddr = none ∧ s.params.onUnwritten = .goOn ∧
      t = (s.noteUnwritten s.laneAddr).addEntry (Config.unspecEntry s.draws)) := by
  unfold tableIterate at h
  split at h
  next b u hl =>
    cases h
    rcases lutLoad_cases hl with ⟨he, rfl⟩ | ⟨he, hp, rfl, rfl⟩
    · exact .inl ⟨b, he, rfl⟩
    · exact .inr ⟨he, hp, rfl⟩
  next f hl => cases h

/-- A LUTINIT step that answers writes entry `INIT_IDX`, or is not enabled (R80). The last case but one is in no run:
an entry below `INIT_IDX` that is not held. -/
theorem lutinitStep_cases {s t : State} (h : lutinitStep s = .next t) :
    (s.lutinitEnabled = false ∧ t = s) ∨
    (s.lutinitEnabled = true ∧ s.initIdx = 0#9 ∧ t = s.appendEntry 0#8) ∨
    (s.lutinitEnabled = true ∧ s.initIdx ≠ 0#9 ∧ ∃ b, s.lutEntry ((s.initIdx >>> 1).setWidth 8) = some b ∧
      t = s.appendEntry (b + (s.initIdx &&& 1#9).setWidth 8)) ∨
    (s.lutinitEnabled = true ∧ s.initIdx ≠ 0#9 ∧ s.lutEntry ((s.initIdx >>> 1).setWidth 8) = none ∧
      s.params.onUnwritten = .goOn ∧
      t = (s.noteUnwritten ((s.initIdx >>> 1).setWidth 8)).appendEntry
        (Config.unspecEntry s.draws + (s.initIdx &&& 1#9).setWidth 8)) := by
  unfold lutinitStep at h
  split at h
  next he =>
    split at h
    next h0 =>
      cases h
      exact .inr (.inl ⟨he, h0, rfl⟩)
    next h0 =>
      split at h
      next b u hl =>
        cases h
        rcases lutLoad_cases hl with ⟨hb, rfl⟩ | ⟨hb, hp, rfl, rfl⟩
        · exact .inr (.inr (.inl ⟨he, h0, b, hb, rfl⟩))
        · exact .inr (.inr (.inr ⟨he, h0, hb, hp, rfl⟩))
      next f hl => cases h
  next he =>
    cases h
    exact .inl ⟨by simpa using he, rfl⟩

/-- A turn of the block that answers: reset is held and nothing happens, or the agent's turn is taken (R93, R101). -/
theorem blockTurn_cases {turn : State → StepResult} {s t : State} (h : blockTurn turn s = .next t) :
    s.initialised = true ∧ ((s.pins.rst = true ∧ t = s) ∨ (s.pins.rst = false ∧ turn s = .next t)) := by
  unfold blockTurn at h
  split at h
  next hi =>
    refine ⟨hi, ?_⟩
    split at h
    next hr =>
      cases h
      exact .inl ⟨hr, rfl⟩
    next hr => exact .inr ⟨by simpa using hr, h⟩
  next hi => cases h

/-- EXEC's turn that answers (R73, R75). -/
theorem execTurn_cases {s t : State} (h : execTurn s = .next t) :
    (s.phase = .busy ∧ exec s.inFlight s = .next t) ∨
    (s.phase = .idle ∧ s.pins.cmdValid = true ∧ exec s.presented s.takeCommand = .next t) ∨
    (s.phase = .idle ∧ s.pins.cmdValid = false ∧ t = s) := by
  unfold execTurn at h
  split at h
  next hp => exact .inl ⟨hp, h⟩
  next hp =>
    split at h
    next hv => exact .inr (.inl ⟨hp, hv, h⟩)
    next hv =>
      cases h
      exact .inr (.inr ⟨hp, by simpa using hv, rfl⟩)

/-- A step that answers: a move of the host, reset held, EXEC's turn or LUTINIT's (R10, R73). -/
theorem step_cases {s t : State} (h : step s = .next t) :
    (∃ m, s.nextTurn = .host m ∧ t = hostMove m s.dropTurn) ∨
    ((s.nextTurn = .exec ∨ s.nextTurn = .lutinit) ∧ s.initialised = true ∧ s.pins.rst = true ∧ t = s.dropTurn) ∨
    (s.nextTurn = .exec ∧ s.initialised = true ∧ s.pins.rst = false ∧ execTurn s.dropTurn = .next t) ∨
    (s.nextTurn = .lutinit ∧ s.initialised = true ∧ s.pins.rst = false ∧ lutinitStep s.dropTurn = .next t) := by
  unfold step takeTurn at h
  cases hn : s.nextTurn with
  | host m =>
    rw [hn] at h
    cases h
    exact .inl ⟨m, rfl, rfl⟩
  | exec =>
    rw [hn] at h
    obtain ⟨hi, ⟨hr, rfl⟩ | ⟨hr, ht⟩⟩ := blockTurn_cases h
    · exact .inr (.inl ⟨.inl rfl, hi, hr, rfl⟩)
    · exact .inr (.inr (.inl ⟨rfl, hi, hr, ht⟩))
  | lutinit =>
    rw [hn] at h
    obtain ⟨hi, ⟨hr, rfl⟩ | ⟨hr, ht⟩⟩ := blockTurn_cases h
    · exact .inr (.inl ⟨.inr rfl, hi, hr, rfl⟩)
    · exact .inr (.inr (.inr ⟨rfl, hi, hr, ht⟩))

/-- `n + 1` steps are one step and `n` after it. -/
theorem stepTimes_succ (n : Nat) (s : State) : stepTimes (n + 1) s = andThen (step s) (stepTimes n) := by
  simp only [stepTimes, andThen]
  cases step s <;> rfl

/-- `m + n` steps are `m` steps and `n` after them. -/
theorem stepTimes_add (m n : Nat) (s : State) : stepTimes (m + n) s = andThen (stepTimes m s) (stepTimes n) := by
  induction m generalizing s with
  | zero => rw [Nat.zero_add]; rfl
  | succ m ih =>
    rw [Nat.succ_add, stepTimes_succ, stepTimes_succ]
    cases h : step s with
    | next t => exact ih t
    | fault f => rfl
    | refused r => rfl

/-- The commands accepted in `m + n` steps are those of the first `m` and those of the `n` after them. -/
theorem acceptedIn_add {m : Nat} {s t : State} (n : Nat) (h : stepTimes m s = .next t) :
    acceptedIn (m + n) s = acceptedIn m s ++ acceptedIn n t := by
  induction m generalizing s with
  | zero =>
    cases h
    rw [Nat.zero_add]
    rfl
  | succ m ih =>
    rw [Nat.succ_add]
    rw [stepTimes_succ] at h
    cases hs : step s with
    | next u =>
      rw [hs] at h
      simp only [acceptedIn, hs, ih h, List.append_assoc]
    | fault f =>
      rw [hs] at h
      cases h
    | refused r =>
      rw [hs] at h
      cases h

/-- Accepting on a command's first step, whatever the command. -/
theorem exec_idle (i : Instr) (s : State) (h : s.phase = .idle) : exec i s = .next (accept i s) := by
  cases i <;> simp [exec, execNaive1, execNaive2, execTable, execParallel, strategyStep, h]

/-- Everything an EXEC step on a command can do (R59, R62, R65, R69, R74 to R76): accept; wait behind a command of
another strategy; stand still where no step is enabled; complete at the end condition; one iteration. -/
theorem exec_cases {i : Instr} {s t : State} (h : exec i s = .next t) :
    (s.phase = .idle ∧ t = accept i s) ∨
    (s.phase = .busy ∧ s.sel ≠ i.sel ∧ t = s) ∨
    (s.phase = .busy ∧ s.sel = i.sel ∧ s.iterateCondition = false ∧ s.endCondition = false ∧ t = s) ∨
    (s.phase = .busy ∧ s.sel = i.sel ∧ s.iterateCondition = false ∧ s.endCondition = true ∧ t = complete s) ∨
    (s.phase = .busy ∧ s.sel = i.sel ∧ s.sel = 0#2 ∧ s.idx < 32#6 ∧ t = naive1Iterate s) ∨
    (s.phase = .busy ∧ s.sel = i.sel ∧ s.sel = 1#2 ∧ s.w ≠ 0#32 ∧ t = naive2Iterate s) ∨
    (s.phase = .busy ∧ s.sel = i.sel ∧ s.sel = 2#2 ∧ s.idx < 4#6 ∧ tableIterate s = .next t) ∨
    (s.phase = .busy ∧ s.sel = i.sel ∧ s.sel = 3#2 ∧ s.idx < 5#6 ∧ t = parallelIterate s) := by
  cases i with
  | naive1 v =>
    rcases strategyStep_cases h with ⟨hp, ht⟩ | ⟨hp, hs, ht⟩ | ⟨hp, hs, hm, ht⟩ | ⟨hp, hs, hm, hf, ht⟩ | ⟨hp, hs, hm, hf, ht⟩
    · exact .inl ⟨hp, ht⟩
    · exact .inr (.inl ⟨hp, hs, ht⟩)
    · cases ht
      exact .inr (.inr (.inr (.inr (.inl ⟨hp, hs, hs, of_decide_eq_true hm, rfl⟩))))
    · replace hs : s.sel = 0#2 := hs
      exact .inr (.inr (.inr (.inl ⟨hp, hs, by simp only [State.iterateCondition, hs]; exact hm,
        by simp only [State.endCondition, hs]; exact hf, ht⟩)))
    · replace hs : s.sel = 0#2 := hs
      exact .inr (.inr (.inl ⟨hp, hs, by simp only [State.iterateCondition, hs]; exact hm,
        by simp only [State.endCondition, hs]; exact hf, ht⟩))
  | naive2 v =>
    rcases strategyStep_cases h with ⟨hp, ht⟩ | ⟨hp, hs, ht⟩ | ⟨hp, hs, hm, ht⟩ | ⟨hp, hs, hm, hf, ht⟩ | ⟨hp, hs, hm, hf, ht⟩
    · exact .inl ⟨hp, ht⟩
    · exact .inr (.inl ⟨hp, hs, ht⟩)
    · cases ht
      exact .inr (.inr (.inr (.inr (.inr (.inl ⟨hp, hs, hs, of_decide_eq_true hm, rfl⟩)))))
    · replace hs : s.sel = 1#2 := hs
      exact .inr (.inr (.inr (.inl ⟨hp, hs, by simp only [State.iterateCondition, hs]; exact hm,
        by simp only [State.endCondition, hs]; exact hf, ht⟩)))
    · replace hs : s.sel = 1#2 := hs
      exact .inr (.inr (.inl ⟨hp, hs, by simp only [State.iterateCondition, hs]; exact hm,
        by simp only [State.endCondition, hs]; exact hf, ht⟩))
  | table v =>
    rcases strategyStep_cases h with ⟨hp, ht⟩ | ⟨hp, hs, ht⟩ | ⟨hp, hs, hm, ht⟩ | ⟨hp, hs, hm, hf, ht⟩ | ⟨hp, hs, hm, hf, ht⟩
    · exact .inl ⟨hp, ht⟩
    · exact .inr (.inl ⟨hp, hs, ht⟩)
    · exact .inr (.inr (.inr (.inr (.inr (.inr (.inl ⟨hp, hs, hs, of_decide_eq_true hm, ht⟩))))))
    · replace hs : s.sel = 2#2 := hs
      exact .inr (.inr (.inr (.inl ⟨hp, hs, by simp only [State.iterateCondition, hs]; exact hm,
        by simp only [State.endCondition, hs]; exact hf, ht⟩)))
    · replace hs : s.sel = 2#2 := hs
      exact .inr (.inr (.inl ⟨hp, hs, by simp only [State.iterateCondition, hs]; exact hm,
        by simp only [State.endCondition, hs]; exact hf, ht⟩))
  | parallel v =>
    rcases strategyStep_cases h with ⟨hp, ht⟩ | ⟨hp, hs, ht⟩ | ⟨hp, hs, hm, ht⟩ | ⟨hp, hs, hm, hf, ht⟩ | ⟨hp, hs, hm, hf, ht⟩
    · exact .inl ⟨hp, ht⟩
    · exact .inr (.inl ⟨hp, hs, ht⟩)
    · cases ht
      exact .inr (.inr (.inr (.inr (.inr (.inr (.inr (⟨hp, hs, hs, of_decide_eq_true hm, rfl⟩)))))))
    · replace hs : s.sel = 3#2 := hs
      exact .inr (.inr (.inr (.inl ⟨hp, hs, by simp only [State.iterateCondition, hs]; exact hm,
        by simp only [State.endCondition, hs]; exact hf, ht⟩)))
    · replace hs : s.sel = 3#2 := hs
      exact .inr (.inr (.inl ⟨hp, hs, by simp only [State.iterateCondition, hs]; exact hm,
        by simp only [State.endCondition, hs]; exact hf, ht⟩))

end Sys2Proof.Machine
end

