-- ==== Sys2Proof/Laws/PerInstr.lean ====
section
/-! SUPPORT. Facts about every command as syntax, one lemma per constructor. -/

namespace Sys2Proof.Laws.EncodedFields

/-- The two fields of an encoded command are its select and its operand (R48). -/
def Statement (i : Instr) : Prop := selField (encode i) = i.sel ∧ valueField (encode i) = i.value

theorem fields_of_append (c : Select) (v : Word) : selField (c ++ v) = c ∧ valueField (c ++ v) = v := by
  have bit (k : Nat) : BitVec.getLsbD (w := 34) (c ++ v) k = if k < 32 then v.getLsbD k else c.getLsbD (k - 32) :=
    BitVec.getLsbD_append
  constructor <;> apply BitVec.eq_of_getLsbD_eq <;> intro k hk
  · simp [selField, hk, bit]
  · simp [valueField, hk, bit]

theorem naive1 (value : Word) : Statement (.naive1 value) := fields_of_append 0#2 value
theorem naive2 (value : Word) : Statement (.naive2 value) := fields_of_append 1#2 value
theorem table (value : Word) : Statement (.table value) := fields_of_append 2#2 value
theorem parallel (value : Word) : Statement (.parallel value) := fields_of_append 3#2 value

end Sys2Proof.Laws.EncodedFields
end

