-- ==== Sys2Proof/Tests/Slice0.lean ====
section
/-! SUPPORT. Small tests, their expected values from the spec's own vectors (95_test_vectors.md) or worked from its rules
by hand, and one witness for the hypotheses of every statement that has any. -/

namespace Sys2Proof.Tests

open Sys2Proof.Machine

/-- The answer is a next state of which `p` holds. -/
def nextHas (p : State → Bool) (r : StepResult) : Bool :=
  match r with
  | .next t => p t
  | .fault _ => false
  | .refused _ => false

/-! ### Well-formedness: the smoke test of each check -/

theorem test_select_four_is_refused : RawCommand.toInstr? ⟨4, 0⟩ = none := by decide
theorem test_value_two_to_32_is_refused : RawCommand.toInstr? ⟨0, 4294967296⟩ = none := by decide
theorem test_largest_numbers_are_a_command :
    RawCommand.toInstr? ⟨3, 4294967295⟩ = some (.parallel 0xFFFFFFFF#32) := by decide

/-! ### Decoding: words written out bit by bit from R48 and R49 -/

theorem test_decode_naive1 : decode 0b00_00010000000100000001000000010000#34 = .naive1 0x10101010#32 := by decide
theorem test_decode_naive2 : decode 0b01_10000000000000000000000000000001#34 = .naive2 0x80000001#32 := by decide
theorem test_decode_table : decode 0b10_00000000111111110000000011111111#34 = .table 0x00FF00FF#32 := by decide
theorem test_decode_parallel : decode 0b11_11011110101011011011111011101111#34 = .parallel 0xDEADBEEF#32 := by decide
theorem test_encode_table : encode (.table 0x00FF00FF#32) = 0x200FF00FF#34 := by decide
theorem test_wide_word_is_refused : decodeTableWord 40 0x400000000 = none := by decide

/-! ### The assembler (R55, R56) -/

/-- `TABLE 0x00FF00FF` and a comment. -/
theorem test_read_hexadecimal_line :
    readLine (nameTable ++ [' ', '0', 'x', '0', '0', 'F', 'F', '0', '0', 'f', 'f', ' ', ';', 'w']) =
      some (.command (.table 0x00FF00FF#32)) := by decide
/-- `count_bits_naive1 1`. -/
theorem test_read_alias : readLine (aliasStem ++ stemNaive1 ++ [' ', '1']) = some (.command (.naive1 1#32)) := by decide
/-- `NAIVE1 4294967296`, one above the largest literal. -/
theorem test_read_literal_too_large :
    readLine (nameNaive1 ++ [' ', '4', '2', '9', '4', '9', '6', '7', '2', '9', '6']) = none := by decide

/-! ### States for the tests -/

/-- The table complete, nothing in flight. -/
def ready : State := { State.reset with initIdx := 256#9, lut := fullTable }
/-- One entry built, nothing in flight. -/
def oneBuilt : State := { State.reset with initIdx := 1#9, lut := [(0, 0#8)] }
/-- A command in flight on the complete table, EXEC's turn next. -/
def busy (sel : Select) (w acc : Word) (idx : BitVec 6) : State :=
  { ready with phase := .busy, sel := sel, w := w, acc := acc, idx := idx, agenda := [.exec] }
/-- A result held on the complete table. -/
def held (sel : Select) (res : Word) : State := { ready with sel := sel, res := res, resValid := true }
/-- A command presented, EXEC's turn next. -/
def presenting (s : State) (sel : Select) (value : Word) : State :=
  { s with pins := { rst := false, cmdValid := true, cmdSel := sel, cmdValue := value }, agenda := [.exec] }

theorem ready_tableInv : TableInv ready where
  canonical := fullTable_wf
  bound := by decide
  entries n := by simpa [ready] using fullTable_read n

theorem ready_complete : TableComplete ready := ⟨ready_tableInv, by decide⟩

theorem oneBuilt_tableInv : TableInv oneBuilt where
  canonical := by decide
  bound := by decide
  entries n := by
    by_cases h : n = 0
    · subst h; decide
    · have h' : ¬ n < 1 := by omega
      simp [oneBuilt, Memory.read, h]

/-! ### Steps, with the values of 95_test_vectors.md -/

/-- V-CTL: accept of TABLE 0x00FF00FF from the reset state. -/
theorem test_accept_table : nextHas (fun t => t.phase = .busy && t.sel = 2#2 && t.w = 0x00FF00FF#32 && t.acc = 0#32 &&
    t.idx = 0#6 && !t.resValid) (step (State.reset.withFetchWord 40 0x200FF00FF)) = true := by decide
/-- V-N1: bit 31 of 0x80000001 is the last one added. -/
theorem test_naive1_last_iteration : nextHas (fun t => t.acc = 2#32 && t.idx = 32#6 && t.w = 0x80000001#32)
    (exec (.naive1 0#32) (busy 0#2 0x80000001#32 1#32 31#6)) = true := by decide
/-- V-CTL: NAIVE1 completes from `ACC`. -/
theorem test_naive1_completes : nextHas (fun t => t.res = 0x18#32 && t.resValid && t.phase = .idle)
    (exec (.naive1 0#32) (busy 0#2 0xDEADBEEF#32 0x18#32 32#6)) = true := by decide
/-- V-N2: the first iteration on 0x0000000B. -/
theorem test_naive2_iteration : nextHas (fun t => t.w = 0x5#32 && t.acc = 1#32 && t.idx = 0#6)
    (exec (.naive2 0#32) (busy 1#2 0xB#32 0#32 0#6)) = true := by decide
/-- V-N2: operand 0 completes with no iteration. -/
theorem test_naive2_zero_completes : nextHas (fun t => t.res = 0#32 && t.resValid && t.phase = .idle)
    (exec (.naive2 0#32) (busy 1#2 0#32 0#32 0#6)) = true := by decide
/-- V-TAB: lane 0 of 0xDEADBEEF is 0xEF, entry 7. -/
theorem test_table_first_lookup : nextHas (fun t => t.acc = 7#32 && t.idx = 1#6)
    (exec (.table 0#32) { busy 2#2 0xDEADBEEF#32 0#32 0#6 with lut := [(0xEF, 7#8)] }) = true := by decide
/-- V-TAB: lane 3 of 0x80000000 is 0x80, entry 1. -/
theorem test_table_last_lookup : nextHas (fun t => t.acc = 1#32 && t.idx = 4#6)
    (exec (.table 0#32) { busy 2#2 0x80000000#32 0#32 3#6 with lut := [(0x80, 1#8)] }) = true := by decide
/-- V-PAR: round 0 of 0xDEADBEEF. -/
theorem test_parallel_round_zero : nextHas (fun t => t.w = 0x9959699A#32 && t.idx = 1#6 && t.acc = 0#32)
    (exec (.parallel 0#32) (busy 3#2 0xDEADBEEF#32 0#32 0#6)) = true := by decide
/-- V-CTL: PARALLEL completes from `W`. -/
theorem test_parallel_completes : nextHas (fun t => t.res = 0x18#32 && t.resValid && t.phase = .idle)
    (exec (.parallel 0#32) (busy 3#2 0x18#32 0#32 5#6)) = true := by decide
/-- V-LUT: step 4 reads entry 1 and writes entry 3 with 2. -/
theorem test_lutinit_entry_three : nextHas (fun t => t.lut.read 3 = some 2#8 && t.initIdx = 4#9 && !t.lutReady)
    (lutinitStep { State.reset with initIdx := 3#9, lut := [(0, 0#8), (1, 1#8), (2, 1#8)] }) = true := by decide
/-- P4, schedule A, where the configuration asks for the fault. -/
theorem test_early_table_faults : (match step { busy 2#2 0xFF#32 0#32 0#6 with
      initIdx := 0#9, lut := [], params := ⟨false, .fault⟩ } with
    | .fault f => decide (f = .lutEntryUnwritten 0xFF#8)
    | .next _ => false
    | .refused _ => false) = true := by decide
/-- P4, schedule A, where the machine goes on: the mark is set and the index steps. -/
theorem test_early_table_goes_on : nextHas (fun t => t.unwrittenReads = [0xFF#8] && t.idx = 1#6)
    (step { busy 2#2 0xFF#32 0#32 0#6 with initIdx := 0#9, lut := [] }) = true := by decide
/-- V-RST: a result held and 100 entries are lost by a reset. -/
theorem test_reset_event : nextHas (fun t => t.phase = .idle && !t.resValid && t.initIdx = 0#9 && t.lut = [] && t.cmdReady)
    (step { held 3#2 0x10#32 with initIdx := 100#9, agenda := [.host .assertReset] }) = true := by decide
/-- The same with the table preloaded. -/
theorem test_reset_event_preloaded : nextHas (fun t => t.lutReady && t.lut.read 3 = some 2#8)
    (step { held 3#2 0x10#32 with params := ⟨true, .goOn⟩, agenda := [.host .assertReset] }) = true := by decide
/-- R93: a step before the first reset is refused by name. -/
theorem test_power_on_is_refused : (match step { ready with initialised := false } with
    | .refused r => decide (r = .notReset)
    | .next _ => false
    | .fault _ => false) = true := by decide
/-- The host reads a machine whose step is this one. -/
theorem test_core_step : core.step = step := rfl

/-! ### Witnesses: for every statement with hypotheses, a state and operands that meet them all -/

/-- NAIVE1 on 0xFFFFFFFF after 10 iterations (P5). -/
theorem inv_naive1 : Inv ⟨0xFFFFFFFF#32, false⟩ (busy 0#2 0xFFFFFFFF#32 10#32 10#6) where
  table := ⟨ready_tableInv.1, ready_tableInv.2, ready_tableInv.3⟩
  inFlight _ := ⟨rfl, fun _ => by decide, fun h => absurd h (by decide), fun h => absurd h (by decide),
    fun h => absurd h (by decide)⟩
  result h := absurd h (by decide)
  resultHeld h := absurd h (by decide)

/-- NAIVE2 on 0x0000000B after 1 iteration (V-N2). -/
theorem inv_naive2 : Inv ⟨0xB#32, false⟩ (busy 1#2 0x5#32 1#32 0#6) where
  table := ⟨ready_tableInv.1, ready_tableInv.2, ready_tableInv.3⟩
  inFlight _ := ⟨rfl, fun h => absurd h (by decide), fun _ => ⟨rfl, 1, by decide⟩, fun h => absurd h (by decide),
    fun h => absurd h (by decide)⟩
  result h := absurd h (by decide)
  resultHeld h := absurd h (by decide)

/-- TABLE on 0x00FF00FF after 1 lookup (V-TAB). -/
theorem inv_table : Inv ⟨0x00FF00FF#32, false⟩ (busy 2#2 0x00FF00FF#32 8#32 1#6) where
  table := ⟨ready_tableInv.1, ready_tableInv.2, ready_tableInv.3⟩
  inFlight _ := ⟨rfl, fun h => absurd h (by decide), fun h => absurd h (by decide),
    fun _ => ⟨by decide, rfl, fun _ => by decide⟩, fun h => absurd h (by decide)⟩
  result h := absurd h (by decide)
  resultHeld h := absurd h (by decide)

/-- PARALLEL on 0xFFFF0000 after round 0 (V-PAR). -/
theorem inv_parallel : Inv ⟨0xFFFF0000#32, false⟩ (busy 3#2 0xAAAA0000#32 0#32 1#6) where
  table := ⟨ready_tableInv.1, ready_tableInv.2, ready_tableInv.3⟩
  inFlight _ := ⟨rfl, fun h => absurd h (by decide), fun h => absurd h (by decide), fun h => absurd h (by decide),
    fun _ => ⟨by decide, rfl, by decide⟩⟩
  result h := absurd h (by decide)
  resultHeld h := absurd h (by decide)

/-- The result 16 of 0x00FF00FF held, of a command with select `c`. -/
theorem inv_held (c : Select) : Inv ⟨0x00FF00FF#32, true⟩ (held c 16#32) where
  table := ⟨ready_tableInv.1, ready_tableInv.2, ready_tableInv.3⟩
  inFlight h := by cases h
  result _ := ⟨rfl, fun _ => (by decide : (16#32).toNat = popcount 0x00FF00FF#32)⟩
  resultHeld _ := rfl

theorem no_fault_recorded (s : State) (h : s.unwrittenReads = []) : ¬ s.faultRecorded := fun hf => hf h

/-- EveryCommandWordDecodes: the largest word, and the smallest number that is none. -/
theorem witness_EveryCommandWordDecodes :
    (0x3FFFFFFFF < 2 ^ 34 ∧ 0x3FFFFFFFF < 2 ^ 40) ∧ 2 ^ 34 ≤ 0x400000000 := by decide
/-- DecodeAndEncodeAgree, last clause: two words with one decoding. -/
theorem witness_DecodeAndEncodeAgree : decode 0x3FFFFFFFF#34 = decode 0x3FFFFFFFF#34 := rfl
/-- StepRunsTheCommand: a command presented, one in flight, and neither. -/
theorem witness_StepRunsTheCommand :
    ((presenting ready 2#2 7#32).accepts = true ∧ decode (2#2 ++ 7#32) = .table 7#32) ∧
    ((busy 0#2 1#32 0#32 0#6).execMoves = true ∧ (busy 0#2 1#32 0#32 0#6).phase = .busy) ∧
    (ready.execMoves = true ∧ ready.phase = .idle ∧ ready.pins.cmdValid = false) := by decide
theorem witness_PlacedWordRunsNext : decodeTableWord 40 0x2000000FF = some (.table 0xFF#32) := by decide
theorem witness_AcceptTakesThePresentedCommand :
    (presenting oneBuilt 2#2 7#32).accepts = true ∧
    ((busy 0#2 1#32 0#32 0#6).phase = .busy ∧ ∀ m, (busy 0#2 1#32 0#32 0#6).nextTurn ≠ .host m) ∧
    ready.phase = .idle := ⟨by decide, ⟨rfl, fun _ h => by cases h⟩, rfl⟩
theorem witness_OtherStrategyWaitsWhileBusy : (busy 0#2 1#32 0#32 0#6).phase = .busy ∧
    (busy 0#2 1#32 0#32 0#6).sel ≠ (Instr.table 0#32).sel := by decide
/-- Naive1IterateAddsBitIdx: the last iteration, and the end. -/
theorem witness_Naive1IterateAddsBitIdx :
    ((busy 0#2 1#32 1#32 31#6).phase = .busy ∧ (busy 0#2 1#32 1#32 31#6).sel = 0#2 ∧ (busy 0#2 1#32 1#32 31#6).idx < 32#6) ∧
    (¬ (busy 0#2 1#32 1#32 32#6).idx < 32#6 ∧ ∃ t, exec (.naive1 1#32) (busy 0#2 1#32 1#32 32#6) = .next t) :=
  ⟨by decide, by decide, _, rfl⟩
/-- Naive2IterateShiftsW: the last iteration, and the end. -/
theorem witness_Naive2IterateShiftsW :
    ((busy 1#2 1#32 0#32 0#6).phase = .busy ∧ (busy 1#2 1#32 0#32 0#6).sel = 1#2 ∧ (busy 1#2 1#32 0#32 0#6).w ≠ 0#32) ∧
    ((busy 1#2 0#32 1#32 0#6).w = 0#32 ∧ ∃ t, exec (.naive2 1#32) (busy 1#2 0#32 1#32 0#6) = .next t) :=
  ⟨by decide, by decide, _, rfl⟩
/-- TableIterateReadsOneLane, first and fourth clause: the last lane and the highest address, on the complete table. -/
theorem witness_TableIterateReadsOneLane_written :
    TableInv (busy 2#2 0xFF000000#32 0#32 3#6) ∧
    ((busy 2#2 0xFF000000#32 0#32 3#6).phase = .busy ∧ (busy 2#2 0xFF000000#32 0#32 3#6).sel = 2#2 ∧
      0xFF#8 = ((0xFF000000#32 >>> (8 * 3)) &&& 0xFF#32).setWidth 8 ∧ (busy 2#2 0xFF000000#32 0#32 3#6).idx < 4#6 ∧
      (0xFF#8).toNat < (busy 2#2 0xFF000000#32 0#32 3#6).initIdx.toNat ∧
      (busy 2#2 0xFF000000#32 0#32 3#6).lutReady = true) :=
  ⟨⟨ready_tableInv.1, ready_tableInv.2, ready_tableInv.3⟩, by decide⟩
/-- Second and third clause: address 1 is the first unwritten entry where `INIT_IDX` is 1. -/
theorem witness_TableIterateReadsOneLane_unwritten :
    let s : State := { busy 2#2 0x1#32 0#32 0#6 with initIdx := 1#9, lut := [(0, 0#8)] }
    let s' : State := { s with params := ⟨false, .fault⟩ }
    s.phase = .busy ∧ s.sel = 2#2 ∧ 0x1#8 = ((s.w >>> (8 * s.idx.toNat)) &&& 0xFF#32).setWidth 8 ∧ s.idx < 4#6 ∧
      s.initIdx.toNat ≤ (0x1#8).toNat ∧ s.params.onUnwritten = .goOn ∧ s'.params.onUnwritten = .fault := by decide
/-- Last clause: the end. -/
theorem witness_TableIterateReadsOneLane_end :
    ¬ (busy 2#2 1#32 1#32 4#6).idx < 4#6 ∧ ∃ t, exec (.table 1#32) (busy 2#2 1#32 1#32 4#6) = .next t :=
  ⟨by decide, _, rfl⟩
/-- ParallelIterateIsOneRound: the last round, and the end. -/
theorem witness_ParallelIterateIsOneRound :
    ((busy 3#2 1#32 0#32 4#6).phase = .busy ∧ (busy 3#2 1#32 0#32 4#6).sel = 3#2 ∧ (busy 3#2 1#32 0#32 4#6).idx.toNat < 5) ∧
    (¬ (busy 3#2 1#32 0#32 5#6).idx.toNat < 5 ∧ ∃ t, exec (.parallel 1#32) (busy 3#2 1#32 0#32 5#6) = .next t) :=
  ⟨by decide, by decide, _, rfl⟩
/-- CompleteDeliversTheResult: the end condition of each strategy, and a result held while LUTINIT's turn passes. -/
theorem witness_CompleteDeliversTheResult :
    ((busy 0#2 1#32 1#32 32#6).idx = 32#6 ∧ (busy 0#2 1#32 1#32 32#6).sel = (Instr.naive1 1#32).sel) ∧
    ((busy 1#2 0#32 1#32 0#6).w = 0#32 ∧ (busy 1#2 0#32 1#32 0#6).sel = (Instr.naive2 1#32).sel) ∧
    ((busy 2#2 1#32 1#32 4#6).idx = 4#6 ∧ (busy 2#2 1#32 1#32 4#6).sel = (Instr.table 1#32).sel) ∧
    ((busy 3#2 1#32 0#32 5#6).idx = 5#6 ∧ (busy 3#2 1#32 0#32 5#6).sel = (Instr.parallel 1#32).sel) ∧
    ((held 3#2 1#32).phase = .idle ∧ (held 3#2 1#32).rspValid = true ∧ (held 3#2 1#32).accepts = false ∧
      (held 3#2 1#32).resets = false ∧ ∃ t, step (held 3#2 1#32) = .next t) :=
  ⟨by decide, by decide, by decide, by decide, by decide, by decide, by decide, by decide, _, rfl⟩
/-- ExactlyOneExecStepIsEnabled: `inv_naive1`, `inv_naive2`, `inv_table`, `inv_parallel` iterate; NAIVE1 on 0xFFFFFFFF
at its end completes; an idle state with a command presented and one without. -/
theorem witness_ExactlyOneExecStepIsEnabled :
    Inv ⟨0xFFFFFFFF#32, false⟩ (busy 0#2 0xFFFFFFFF#32 32#32 32#6) ∧ (busy 0#2 0xFFFFFFFF#32 32#32 32#6).phase = .busy ∧
    ((presenting ready 2#2 7#32).phase = .idle ∧ (presenting ready 2#2 7#32).pins.cmdValid = true) ∧
    (ready.phase = .idle ∧ ready.pins.cmdValid = false) :=
  ⟨⟨⟨ready_tableInv.1, ready_tableInv.2, ready_tableInv.3⟩,
    fun _ => ⟨rfl, fun _ => by decide, fun h => absurd h (by decide), fun h => absurd h (by decide),
      fun h => absurd h (by decide)⟩, fun h => absurd h (by decide), fun h => absurd h (by decide)⟩, by decide⟩
/-- NoAdditionWraps: `inv_naive1`, `inv_naive2`, `inv_table`, `inv_parallel` and these. -/
theorem witness_NoAdditionWraps :
    ((busy 0#2 0xFFFFFFFF#32 10#32 10#6).phase = .busy ∧ (busy 0#2 0xFFFFFFFF#32 10#32 10#6).idx < 32#6) ∧
    (busy 1#2 0x5#32 1#32 0#6).w ≠ 0#32 ∧
    ((busy 2#2 0x00FF00FF#32 8#32 1#6).idx < 4#6 ∧ (busy 2#2 0x00FF00FF#32 8#32 1#6).unwrittenReads = [] ∧
      (busy 2#2 0x00FF00FF#32 8#32 1#6).lutEntry (lane 0x00FF00FF#32 1) = some 0#8) ∧
    (busy 3#2 0xAAAA0000#32 0#32 1#6).idx.toNat < 5 := by decide
/-- AcceptedCommandsComplete: a TABLE command in flight, with no fault recorded. -/
theorem witness_AcceptedCommandsComplete :
    (busy 2#2 0x00FF00FF#32 8#32 1#6).phase = .busy ∧ (busy 2#2 0x00FF00FF#32 8#32 1#6).tableDutyKept ∧
    ((busy 2#2 0x00FF00FF#32 8#32 1#6).sel = 2#2 → ¬ (busy 2#2 0x00FF00FF#32 8#32 1#6).faultRecorded) :=
  ⟨rfl, fun _ _ => by decide, fun _ => no_fault_recorded _ rfl⟩
/-- Naive1CountsAllPositions, Naive2CountsUntilZero, ParallelReducesInFiveRounds. -/
theorem witness_whole_commands : ready.phase = .idle := rfl
/-- TableSumsFourLanes: one entry built is enough for operand 0 (95_test_vectors.md P4). -/
theorem witness_TableSumsFourLanes : oneBuilt.phase = .idle ∧ TableInv oneBuilt ∧
    ∀ j < 4, (lane 0#32 j).toNat < oneBuilt.initIdx.toNat := ⟨rfl, oneBuilt_tableInv, by decide⟩
/-- FourStrategiesAgree, ResultsAreInRange, RequiredPropertiesOfEveryOperation, ResultDependsOnOperandOnly. -/
theorem witness_complete_table : ready.phase = .idle ∧ TableComplete ready := ⟨rfl, ready_complete⟩
/-- ResultDependsOnOperandOnly, second clause: NAIVE2 on 0 runs to its end. -/
theorem witness_ResultDependsOnOperandOnly : ∃ t, runCommand (.naive2 0#32) ready = .next t := ⟨_, rfl⟩
/-- RequiredPropertiesOfEveryOperation, single bit: the highest position. -/
theorem witness_RequiredPropertiesOfEveryOperation : 31 < 32 := by decide
theorem witness_EarlyTableStillCompletes : oneBuilt.phase = .idle ∧ oneBuilt.params.onUnwritten = .goOn := by decide
/-- PresentedCommandRunsToItsEnd: TABLE 7 presented on the complete table. -/
theorem witness_PresentedCommandRunsToItsEnd :
    let s : State := { presenting ready 2#2 7#32 with agenda := List.replicate 34 .exec }
    s.phase = .idle ∧ s.initialised = true ∧ s.pins.rst = false ∧ s.pins.cmdValid = true ∧
      s.agenda = List.replicate 34 .exec ∧ TableComplete s ∧ ¬ s.faultRecorded :=
  ⟨rfl, rfl, rfl, rfl, rfl, ⟨⟨ready_tableInv.1, ready_tableInv.2, ready_tableInv.3⟩, by decide⟩, no_fault_recorded _ rfl⟩
/-- RunOfCommandsEnds: a run of two commands, and one of none, from power-on. -/
theorem witness_RunOfCommandsEnds :
    let s : State := { oneBuilt with initialised := false, agenda := runTurns [.table 7#32, .naive2 0#32] }
    (s.agenda = runTurns [.table 7#32, .naive2 0#32] ∧ s.pins.cmdValid = false ∧ ¬ s.faultRecorded ∧
      [Instr.table 7#32, .naive2 0#32].getLast? = some (.naive2 0#32)) ∧
    State.agenda { oneBuilt with agenda := runTurns [] } = runTurns [] :=
  ⟨⟨rfl, rfl, no_fault_recorded _ rfl, rfl⟩, rfl⟩
/-- PreloadedTableStaysComplete: a preloaded machine with its table complete, and one at its reset event. -/
theorem witness_PreloadedTableStaysComplete :
    let s : State := { ready with params := ⟨true, .goOn⟩ }
    let s' : State := { oneBuilt with params := ⟨true, .goOn⟩, agenda := [.host .assertReset] }
    (s.params.lutPreloaded = true ∧ TableComplete s ∧ ∃ t, step s = .next t ∧ t.params.lutPreloaded = true) ∧
    (s'.resets = true ∧ ∃ t, step s' = .next t ∧ t.params.lutPreloaded = true) :=
  ⟨⟨rfl, ⟨⟨ready_tableInv.1, ready_tableInv.2, ready_tableInv.3⟩, by decide⟩, _, rfl, rfl⟩, by decide, _, rfl, rfl⟩
/-- RoundSumsAdjacentFields: the last round, on fields that hold their popcounts. -/
theorem witness_RoundSumsAdjacentFields : (∀ g < 32 / 2 ^ 4,
    (field 0x00080008#32 4 g).toNat = popcount (field 0x00FF00FF#32 4 g)) ∧ 0 < 32 / 2 ^ 5 := by decide
/-- MasksFollowTheirLaw: a pair of bits one period apart, for the longest period that has one. -/
theorem witness_MasksFollowTheirLaw : 15 < 32 ∧ 15 + 2 ^ (3 + 1) < 32 := by decide
theorem witness_LanesAreTheBytes : 3 < 4 := by decide
/-- LutinitWritesTheNextEntry, ConstructionCompletesTheTable, ExecAndLutinitCommute: one entry built, and all. -/
theorem witness_LutinitWritesTheNextEntry :
    (TableInv oneBuilt ∧ oneBuilt.initIdx.toNat < 256 ∧ oneBuilt.initIdx.toNat ≠ 0) ∧
    (TableInv ready ∧ ready.initIdx.toNat = 256) := ⟨⟨oneBuilt_tableInv, by decide⟩, ready_tableInv, by decide⟩
/-- FinishedTableDoubles: the upper half of the table. -/
theorem witness_FinishedTableDoubles : TableComplete ready ∧ 7 < 8 ∧ 127 < 2 ^ 7 := ⟨ready_complete, by decide⟩
theorem witness_LutReadyMeansComplete : ready.lutReady = true ∧ ready.resets = false ∧ ready.phase = .idle ∧
    ∃ t, step ready = .next t := ⟨by decide, by decide, rfl, _, rfl⟩
theorem witness_WrittenEntriesAreImmutable : TableInv oneBuilt ∧ oneBuilt.resets = false ∧
    (∃ t, step oneBuilt = .next t) ∧ oneBuilt.lut.read 0 = some 0#8 :=
  ⟨oneBuilt_tableInv, by decide, ⟨_, rfl⟩, by decide⟩
theorem witness_StepKeepsMemoryForm : oneBuilt.lut.wf ∧ ∃ t, step oneBuilt = .next t := ⟨by decide, _, rfl⟩
/-- ResetEventEstablishesInvariant, ResetEventTakesResetValues, AssertedResetHoldsTheBlock: a command in flight, and
both values of `LUT_PRELOADED`. -/
theorem witness_resets :
    (State.resets { busy 0#2 0xFFFFFFFF#32 10#32 10#6 with agenda := [.host .assertReset] } = true ∧
      (busy 0#2 0xFFFFFFFF#32 10#32 10#6).params.lutPreloaded = false) ∧
    State.resets { ready with params := ⟨true, .goOn⟩, agenda := [.host .assertReset] } = true := by decide
/-- ResetEventTakesResetValues, second and last clause: an idle state, one with no valid result. -/
theorem witness_ResetEventTakesResetValues : ready.phase = .idle ∧ ready.rspValid = false := by decide
/-- AssertedResetHoldsTheBlock: `rst` asserted, and its release. -/
theorem witness_AssertedResetHoldsTheBlock :
    (ready.setRst true).initialised = true ∧ (ready.setRst true).pins.rst = true ∧ (ready.setRst true).nextTurn = .exec ∧
    State.nextTurn { ready.setRst true with agenda := [.host .releaseReset] } = .host .releaseReset := by decide
/-- StepKeepsInvariant: an iteration (`inv_naive1`) and a passing turn with a result held (`inv_held`). -/
theorem witness_StepKeepsInvariant : (∃ t, step (busy 0#2 0xFFFFFFFF#32 10#32 10#6) = .next t) ∧
    ∃ t, step (held 0#2 16#32) = .next t := ⟨⟨_, rfl⟩, _, rfl⟩
/-- HostDutyPreventsUnwrittenReads: a TABLE command accepted on the complete table, and one in flight. -/
theorem witness_HostDutyPreventsUnwrittenReads :
    (TableInv (presenting ready 2#2 7#32) ∧ (presenting ready 2#2 7#32).tableDutyKept ∧
      (presenting ready 2#2 7#32).keepsTableDuty ∧ ∃ t, step (presenting ready 2#2 7#32) = .next t) ∧
    ((busy 2#2 7#32 0#32 0#6).tableDutyKept ∧ (busy 2#2 7#32 0#32 0#6).keepsTableDuty) :=
  ⟨⟨⟨ready_tableInv.1, ready_tableInv.2, ready_tableInv.3⟩, nofun, fun _ _ => by decide, _, rfl⟩,
    fun _ _ => by decide, fun h => absurd h (by decide)⟩
theorem witness_FaultMarkIsNeverCleared : ∃ t, step ready = .next t := ⟨_, rfl⟩
theorem witness_StepsBeforeFirstResetAreRefused :
    State.initialised { oneBuilt with initialised := false } = false ∧
    State.nextTurn { oneBuilt with initialised := false } = .lutinit ∧
    State.nextTurn { ready with initialised := false } = .exec := by decide
/-- ExecFrame: an EXEC step while idle and one while busy, each of whose premises some state meets. -/
theorem witness_ExecFrame : (∃ t, exec (.table 0#32) ready = .next t) ∧
    (∃ t, exec (.naive2 0#32) (busy 1#2 0x5#32 1#32 0#6) = .next t) ∧
    (busy 1#2 0x5#32 1#32 0#6).phase = .busy ∧ (busy 1#2 0x5#32 1#32 0#6).sel ≠ 2#2 := ⟨⟨_, rfl⟩, ⟨_, rfl⟩, by decide⟩
theorem witness_LutinitFrame : (∃ t, lutinitStep oneBuilt = .next t) ∧ 0 ≠ oneBuilt.initIdx.toNat := ⟨⟨_, rfl⟩, by decide⟩
theorem witness_HostMovesFrame : (State.nextTurn { ready with agenda := [.host .read] } = .host .read ∧
    HostMove.read ≠ .assertReset) ∧
    (State.nextTurn { ready with agenda := [.host .releaseReset] } = .host .releaseReset ∧
      HostMove.releaseReset ≠ .assertReset) ∧
    (State.nextTurn { ready with agenda := [.host (.drive true 3#2 1#32)] } = .host (.drive true 3#2 1#32) ∧
      HostMove.drive true 3#2 1#32 ≠ .assertReset) := by decide
/-- ExecAndLutinitCommute: a TABLE lookup of entry 0 while entry 1 is being written. -/
theorem witness_ExecAndLutinitCommute :
    let s : State := { oneBuilt with phase := .busy, sel := 2#2 }
    TableInv s ∧ s.phase = .busy ∧ s.sel = 2#2 ∧ s.idx < 4#6 ∧ (lane s.w s.idx.toNat).toNat ≠ s.initIdx.toNat :=
  ⟨⟨oneBuilt_tableInv.1, oneBuilt_tableInv.2, oneBuilt_tableInv.3⟩, by decide⟩
theorem witness_NonTableCommandsIgnoreTheTable : (Instr.parallel 0#32).sel ≠ 2#2 := by decide
/-- OutputsAreFunctionsOfTheState, ValidResultIsThePopcount: `inv_held` and these. -/
theorem witness_outputs : (held 2#2 16#32).rspValid = true ∧ ready.resValid = false ∧ 6 ≤ 6 ∧
    ((held 2#2 16#32).sel = 2#2 → ¬ (held 2#2 16#32).faultRecorded) :=
  ⟨rfl, rfl, le_refl 6, fun _ => no_fault_recorded _ rfl⟩

end Sys2Proof.Tests
end

section
/-! SUPPORT. What runs of EXEC steps on one command do: the table they leave as it is, the two runs that go alike, and
the number of steps after which no command is in flight. -/

namespace Sys2Proof.Machine

/-! ### The table during EXEC steps -/

/-- Every entry of the complete table is written, with its popcount (R23, R26). -/
theorem lutEntry_of_complete {s : State} (h : TableComplete s) (a : Byte) :
    s.lutEntry a = some (BitVec.ofNat 8 (popcount (BitVec.ofNat 8 a.toNat))) := by
  obtain ⟨hinv, hready⟩ := h
  have hlt : a.toNat < s.initIdx.toNat := by
    have hidx : s.initIdx = 256#9 := of_decide_eq_true hready
    rw [hidx]
    exact a.isLt
  rw [lutEntry_of_lt s a hlt, hinv.entries, if_pos hlt]

/-- What TableComplete says of a state it says of every state with the same table and the same `INIT_IDX`. -/
theorem tableComplete_congr {s t : State} (hlut : t.lut = s.lut) (hidx : t.initIdx = s.initIdx)
    (h : TableComplete s) : TableComplete t := by
  obtain ⟨⟨hwf, hbound, hentries⟩, hready⟩ := h
  refine ⟨⟨hlut ▸ hwf, hidx ▸ hbound, fun n => ?_⟩, ?_⟩
  · rw [hlut, hidx]
    exact hentries n
  · rw [State.lutReady, hidx]
    exact hready

/-- A TABLE lookup writes no entry, whether the entry it reads is written or not (R65). -/
theorem tableIterate_keeps_table {s t : State} (h : tableIterate s = .next t) :
    t.lut = s.lut ∧ t.initIdx = s.initIdx := by
  rcases tableIterate_cases h with ⟨b, -, rfl⟩ | ⟨-, -, rfl⟩
  · exact ⟨rfl, rfl⟩
  · exact ⟨rfl, rfl⟩

/-- No EXEC step writes the table: only LUTINIT does (R37). -/
theorem exec_keeps_table {i : Instr} {s t : State} (h : exec i s = .next t) :
    t.lut = s.lut ∧ t.initIdx = s.initIdx := by
  rcases exec_cases h with ⟨-, rfl⟩ | ⟨-, -, rfl⟩ | ⟨-, -, -, -, rfl⟩ | ⟨-, -, -, -, rfl⟩ | ⟨-, -, -, -, rfl⟩ |
    ⟨-, -, -, -, rfl⟩ | ⟨-, -, -, -, hlookup⟩ | ⟨-, -, -, -, rfl⟩
  on_goal 7 => exact tableIterate_keeps_table hlookup
  all_goals simp

/-! ### Runs until no command is in flight -/

theorem execUntilIdle_of_idle (i : Instr) (n : Nat) {s : State} (h : s.phase = .idle) :
    execUntilIdle i n s = .next s := by
  cases n with
  | zero => rfl
  | succ n => simp [execUntilIdle, h]

theorem execUntilIdle_succ_of_busy (i : Instr) (n : Nat) {s : State} (h : s.phase = .busy) :
    execUntilIdle i (n + 1) s = andThen (exec i s) (execUntilIdle i n) := by
  simp only [execUntilIdle, andThen, h]
  cases exec i s <;> rfl

/-- A sequence that answers is a first step that answers and the rest after it. -/
theorem andThen_eq_next {r : StepResult} {f : State → StepResult} {t : State} (h : andThen r f = .next t) :
    ∃ u, r = .next u ∧ f u = .next t := by
  cases r with
  | next u => exact ⟨u, rfl, h⟩
  | fault e => cases h
  | refused e => cases h

/-- A command on an idle block is accepted and then runs until it is no longer in flight. -/
theorem runCommand_of_idle (i : Instr) {s : State} (h : s.phase = .idle) :
    runCommand i s = execUntilIdle i 33 (accept i s) := by
  simp only [runCommand, exec_idle i s h]

/-- What every EXEC step on a command keeps, the run of it keeps. -/
theorem execUntilIdle_keeps {P : State → Prop} {i : Instr}
    (hstep : ∀ {s t : State}, P s → exec i s = .next t → P t) (n : Nat) {s t : State} (hs : P s)
    (h : execUntilIdle i n s = .next t) : P t := by
  induction n generalizing s with
  | zero =>
    cases h
    exact hs
  | succ n ih =>
    cases hp : s.phase with
    | idle =>
      rw [execUntilIdle_of_idle i _ hp] at h
      cases h
      exact hs
    | busy =>
      rw [execUntilIdle_succ_of_busy i n hp] at h
      obtain ⟨u, he, hu⟩ := andThen_eq_next h
      exact ih (hstep hs he) hu

/-- A command leaves a complete table complete. -/
theorem runCommand_keeps_tableComplete {i : Instr} {s t : State} (hp : s.phase = .idle) (hs : TableComplete s)
    (h : runCommand i s = .next t) : TableComplete t := by
  rw [runCommand_of_idle i hp] at h
  have haccept : TableComplete (accept i s) := tableComplete_congr (accept_lut i s) (accept_initIdx i s) hs
  refine execUntilIdle_keeps (fun hu he => ?_) 33 haccept h
  obtain ⟨hlut, hidx⟩ := exec_keeps_table he
  exact tableComplete_congr hlut hidx hu

/-! ### Two runs that go alike -/

/-- Two states with the same command in flight, the same working registers, the same result where one is valid, and
the same written entry at every address. Everything an EXEC step reads is among these. -/
structure SameToExec (s t : State) : Prop where
  phase : s.phase = t.phase
  sel : s.sel = t.sel
  w : s.w = t.w
  acc : s.acc = t.acc
  idx : s.idx = t.idx
  resValid : s.resValid = t.resValid
  res : s.resValid = true → s.res = t.res
  entries : ∀ a, ∃ b, s.lutEntry a = some b ∧ t.lutEntry a = some b

/-- Both answer a next state, and the two states are the same to EXEC. -/
def SameNext (r r' : StepResult) : Prop := ∃ s t, r = .next s ∧ r' = .next t ∧ SameToExec s t

theorem SameToExec.next {s t : State} (h : SameToExec s t) : SameNext (.next s) (.next t) := ⟨s, t, rfl, rfl, h⟩

/-- The accept step overwrites every working register (R74): two states that hold the same written entries are the
same to EXEC afterwards, whatever their registers held. -/
theorem accept_same (i : Instr) {s t : State} (h : ∀ a, ∃ b, s.lutEntry a = some b ∧ t.lutEntry a = some b) :
    SameToExec (accept i s) (accept i t) where
  phase := rfl
  sel := rfl
  w := rfl
  acc := rfl
  idx := rfl
  resValid := rfl
  res := fun hv => nomatch hv
  entries := h

/-- Two complete tables hold the same entries (R23). -/
theorem same_entries_of_complete {s t : State} (hs : TableComplete s) (ht : TableComplete t) (a : Byte) :
    ∃ b, s.lutEntry a = some b ∧ t.lutEntry a = some b :=
  ⟨_, lutEntry_of_complete hs a, lutEntry_of_complete ht a⟩

section
variable {s t : State}

theorem SameToExec.complete (h : SameToExec s t) : SameToExec (complete s) (complete t) :=
  ⟨rfl, h.sel, h.w, h.acc, h.idx, rfl,
    fun _ => by simp only [complete_res, State.resultMux, h.sel, h.w, h.acc], h.entries⟩

theorem SameToExec.naive1Iterate (h : SameToExec s t) : SameToExec (naive1Iterate s) (naive1Iterate t) :=
  ⟨h.phase, h.sel, h.w, by simp [h.acc, h.w, h.idx], by simp [h.idx], h.resValid, h.res, h.entries⟩

theorem SameToExec.naive2Iterate (h : SameToExec s t) : SameToExec (naive2Iterate s) (naive2Iterate t) :=
  ⟨h.phase, h.sel, by simp [h.w], by simp [h.acc, h.w], h.idx, h.resValid, h.res, h.entries⟩

theorem SameToExec.addEntry (b : Byte) (h : SameToExec s t) : SameToExec (s.addEntry b) (t.addEntry b) :=
  ⟨h.phase, h.sel, h.w, by simp [h.acc], by simp [h.idx], h.resValid, h.res, h.entries⟩

/-- A lookup of a written entry adds it. -/
theorem tableIterate_of_written {b : Byte} (h : s.lutEntry s.laneAddr = some b) :
    tableIterate s = .next (s.addEntry b) := by
  simp only [tableIterate, lutLoad, h]

theorem SameToExec.tableIterate (h : SameToExec s t) : SameNext (tableIterate s) (tableIterate t) := by
  have haddr : s.laneAddr = t.laneAddr := by simp only [State.laneAddr, h.w, h.idx]
  obtain ⟨b, hs, ht⟩ := h.entries s.laneAddr
  rw [tableIterate_of_written hs, tableIterate_of_written (haddr ▸ ht)]
  exact (h.addEntry b).next

theorem SameToExec.parallelIterate (h : SameToExec s t) : SameToExec (parallelIterate s) (parallelIterate t) := by
  by_cases hlt : s.idx.toNat < 5
  · rw [parallelIterate_of_lt s hlt, parallelIterate_of_lt t (h.idx ▸ hlt)]
    exact ⟨h.phase, h.sel, by simp only [h.w, h.idx], h.acc, by simp only [h.idx], h.resValid, h.res, h.entries⟩
  · rw [Machine.parallelIterate, dif_neg hlt, Machine.parallelIterate, dif_neg (h.idx ▸ hlt)]
    exact h

/-- The common shape of an EXEC step (R74, R75) leaves two states the same to EXEC if the iterate step does. -/
theorem SameToExec.strategyStep (i : Instr) (more finished : Bool) {r r' : StepResult} (h : SameToExec s t)
    (hr : SameNext r r') : SameNext (strategyStep i more finished r s) (strategyStep i more finished r' t) := by
  unfold Machine.strategyStep
  rw [← h.phase, ← h.sel]
  cases s.phase with
  | idle => exact (accept_same i h.entries).next
  | busy =>
    by_cases hsel : s.sel = i.sel
    · cases more with
      | true => simpa only [hsel, if_true] using hr
      | false =>
        cases finished with
        | true => simpa [hsel] using h.complete.next
        | false => simpa [hsel] using h.next
    · simpa only [hsel, if_false] using h.next

/-- One EXEC step on a command keeps two states the same to EXEC. -/
theorem SameToExec.exec (i : Instr) (h : SameToExec s t) : SameNext (exec i s) (exec i t) := by
  cases i with
  | naive1 v =>
    have hstep := h.strategyStep (.naive1 v) (decide (s.idx < 32#6)) (decide (s.idx = 32#6)) h.naive1Iterate.next
    simpa only [Machine.exec, execNaive1, h.idx] using hstep
  | naive2 v =>
    have hstep := h.strategyStep (.naive2 v) (decide (s.w ≠ 0#32)) (decide (s.w = 0#32)) h.naive2Iterate.next
    simpa only [Machine.exec, execNaive2, h.w] using hstep
  | table v =>
    have hstep := h.strategyStep (.table v) (decide (s.idx < 4#6)) (decide (s.idx = 4#6)) h.tableIterate
    simpa only [Machine.exec, execTable, h.idx] using hstep
  | parallel v =>
    have hstep := h.strategyStep (.parallel v) (decide (s.idx < 5#6)) (decide (s.idx = 5#6)) h.parallelIterate.next
    simpa only [Machine.exec, execParallel, h.idx] using hstep

end

/-- Runs of one command from two states the same to EXEC go alike to their end. -/
theorem SameToExec.execUntilIdle (i : Instr) (n : Nat) {s t : State} (h : SameToExec s t) :
    SameNext (execUntilIdle i n s) (execUntilIdle i n t) := by
  induction n generalizing s t with
  | zero => exact h.next
  | succ n ih =>
    cases hp : s.phase with
    | idle =>
      rw [execUntilIdle_of_idle i _ hp, execUntilIdle_of_idle i _ (h.phase ▸ hp)]
      exact h.next
    | busy =>
      obtain ⟨s', t', hs, ht, h'⟩ := h.exec i
      rw [execUntilIdle_succ_of_busy i n hp, execUntilIdle_succ_of_busy i n (h.phase ▸ hp), hs, ht]
      exact ih h'

/-- Two runs whose ends are the same to EXEC deliver the same result. -/
theorem commandResult_eq_of_sameNext {i : Instr} {s t : State} (h : SameNext (runCommand i s) (runCommand i t)) :
    commandResult i s = commandResult i t := by
  obtain ⟨s', t', hs, ht, h'⟩ := h
  have hvalid : s'.rspValid = t'.rspValid := h'.resValid
  simp only [commandResult, hs, ht, ← hvalid]
  by_cases hv : s'.rspValid = true
  · rw [if_pos hv, if_pos hv, h'.res hv]
  · rw [if_neg hv, if_neg hv]

/-- A result depends on the command alone, where the table is complete (R3). -/
theorem commandResult_eq_of_complete (i : Instr) {s t : State} (hs : s.phase = .idle) (ht : t.phase = .idle)
    (hcs : TableComplete s) (hct : TableComplete t) : commandResult i s = commandResult i t := by
  apply commandResult_eq_of_sameNext
  rw [runCommand_of_idle i hs, runCommand_of_idle i ht]
  exact (accept_same i (same_entries_of_complete hcs hct)).execUntilIdle i 33

/-! ### How long a command is in flight -/

/-- A loop counter at `x` that has to reach `last` reaches it in at most `n` iterations. -/
def CountsTo (last n : Nat) (x : BitVec 6) : Prop := x.toNat ≤ last ∧ last ≤ x.toNat + n

/-- The end condition of the strategy in flight (R75) is at most `n` iterations away. -/
def EndsWithin (n : Nat) (s : State) : Prop :=
  match s.sel with
  | 0#2 => CountsTo 32 n s.idx
  | 1#2 => s.w.toNat < 2 ^ n
  | 2#2 => CountsTo 4 n s.idx
  | 3#2 => CountsTo 5 n s.idx

section
variable {n : Nat} {s : State}

theorem endsWithin_naive1 (h : s.sel = 0#2) : EndsWithin n s ↔ CountsTo 32 n s.idx := by simp only [EndsWithin, h]
theorem endsWithin_naive2 (h : s.sel = 1#2) : EndsWithin n s ↔ s.w.toNat < 2 ^ n := by simp only [EndsWithin, h]
theorem endsWithin_table (h : s.sel = 2#2) : EndsWithin n s ↔ CountsTo 4 n s.idx := by simp only [EndsWithin, h]
theorem endsWithin_parallel (h : s.sel = 3#2) : EndsWithin n s ↔ CountsTo 5 n s.idx := by simp only [EndsWithin, h]

/-- A command just accepted is at most 32 iterations from its end, whichever it is (R78). -/
theorem accept_endsWithin (i : Instr) (s : State) : EndsWithin 32 (accept i s) := by
  cases i with
  | naive1 v => exact (endsWithin_naive1 rfl).mpr (by simp [CountsTo])
  | naive2 v => exact (endsWithin_naive2 rfl).mpr v.isLt
  | table v => exact (endsWithin_table rfl).mpr (by simp [CountsTo])
  | parallel v => exact (endsWithin_parallel rfl).mpr (by simp [CountsTo])

/-- An iteration of a counted loop brings its end one nearer. -/
theorem CountsTo.next {last : Nat} {x : BitVec 6} (hlast : last ≤ 32) (h : CountsTo last n x) (hlt : x.toNat < last) :
    ∃ m, n = m + 1 ∧ CountsTo last m (x + 1#6) := by
  obtain ⟨hle, hn⟩ := h
  have hx : (x + 1#6).toNat = x.toNat + 1 := by bv_omega
  exact ⟨n - 1, by omega, by omega, by omega⟩

/-- An iteration of NAIVE2 brings its end one nearer: it drops the low bit of `W` (R62). -/
theorem shift_lt_of_lt {v : Word} (h : v.toNat < 2 ^ n) (hv : v ≠ 0#32) :
    ∃ m, n = m + 1 ∧ (v >>> 1).toNat < 2 ^ m := by
  have hpos : v.toNat ≠ 0 := fun h0 => hv (BitVec.eq_of_toNat_eq h0)
  cases n with
  | zero => omega
  | succ m =>
    refine ⟨m, rfl, ?_⟩
    rw [BitVec.toNat_ushiftRight, Nat.shiftRight_eq_div_pow]
    omega

/-- A counted loop that does not iterate is at its end. -/
theorem CountsTo.at_last {last : Nat} {x : BitVec 6} (hlast : last ≤ 32) (h : CountsTo last n x)
    (hge : decide (x < BitVec.ofNat 6 last) = false) : decide (x = BitVec.ofNat 6 last) = true := by
  obtain ⟨hle, -⟩ := h
  have hnot : ¬ x < BitVec.ofNat 6 last := of_decide_eq_false hge
  exact decide_eq_true (by bv_omega)

/-- Where the end is in reach, a step is enabled: the end condition holds where the iterate condition does not. -/
theorem EndsWithin.endCondition (h : EndsWithin n s) (hm : s.iterateCondition = false) : s.endCondition = true := by
  unfold EndsWithin at h
  unfold State.iterateCondition at hm
  unfold State.endCondition
  split at h
  next hs =>
    simp only [hs] at hm ⊢
    exact h.at_last (by omega) hm
  next hs => simpa [hs] using hm
  next hs =>
    simp only [hs] at hm ⊢
    exact h.at_last (by omega) hm
  next hs =>
    simp only [hs] at hm ⊢
    exact h.at_last (by omega) hm

/-- A step on the command in flight completes it or is one of the iterations that are left. -/
theorem exec_endsWithin {i : Instr} {t : State} (hp : s.phase = .busy) (hi : s.sel = i.sel) (h : EndsWithin n s)
    (he : exec i s = .next t) :
    t.phase = .idle ∨ (t.phase = .busy ∧ t.sel = i.sel ∧ ∃ m, n = m + 1 ∧ EndsWithin m t) := by
  rcases exec_cases he with ⟨hidle, -⟩ | ⟨-, hne, -⟩ | ⟨-, -, hm, hend, -⟩ | ⟨-, -, -, -, rfl⟩ | ⟨-, -, hs, hlt, rfl⟩ |
    ⟨-, -, hs, hw, rfl⟩ | ⟨-, -, hs, hlt, ht⟩ | ⟨-, -, hs, hlt, rfl⟩
  · simp [hp] at hidle
  · exact absurd hi hne
  · simp [h.endCondition hm] at hend
  · exact .inl rfl
  · obtain ⟨m, hn, hm⟩ := ((endsWithin_naive1 hs).mp h).next (by omega) hlt
    exact .inr ⟨hp, hi, m, hn, (endsWithin_naive1 (s := naive1Iterate s) hs).mpr hm⟩
  · obtain ⟨m, hn, hm⟩ := shift_lt_of_lt ((endsWithin_naive2 hs).mp h) hw
    exact .inr ⟨hp, hi, m, hn, (endsWithin_naive2 (s := naive2Iterate s) hs).mpr hm⟩
  · obtain ⟨m, hn, hm⟩ := ((endsWithin_table hs).mp h).next (by omega) hlt
    rcases tableIterate_cases ht with ⟨b, -, rfl⟩ | ⟨-, -, rfl⟩
    · exact .inr ⟨hp, hi, m, hn, (endsWithin_table (s := s.addEntry b) hs).mpr hm⟩
    · exact .inr ⟨hp, hi, m, hn, (endsWithin_table (s := (s.noteUnwritten s.laneAddr).addEntry _) hs).mpr hm⟩
  · obtain ⟨m, hn, hm⟩ := ((endsWithin_parallel hs).mp h).next (by omega) hlt
    have hsel : (parallelIterate s).sel = s.sel := parallelIterate_sel s
    refine .inr ⟨(parallelIterate_phase s).trans hp, hsel.trans hi, m, hn, (endsWithin_parallel (hsel.trans hs)).mpr ?_⟩
    rw [parallelIterate_of_lt s hlt]
    exact hm

/-- With the iterations that are left and the completion, no command is in flight. -/
theorem execUntilIdle_ends {i : Instr} {t : State} (hp : s.phase = .busy) (hi : s.sel = i.sel) (h : EndsWithin n s)
    (hr : execUntilIdle i (n + 1) s = .next t) : t.phase = .idle := by
  induction n generalizing s with
  | zero =>
    rw [execUntilIdle_succ_of_busy i 0 hp] at hr
    obtain ⟨u, he, hu⟩ := andThen_eq_next hr
    cases hu
    rcases exec_endsWithin hp hi h he with hidle | ⟨-, -, m, hm, -⟩
    · exact hidle
    · omega
  | succ n ih =>
    rw [execUntilIdle_succ_of_busy i (n + 1) hp] at hr
    obtain ⟨u, he, hu⟩ := andThen_eq_next hr
    rcases exec_endsWithin hp hi h he with hidle | ⟨hbusy, hsel, m, hm, hleft⟩
    · rw [execUntilIdle_of_idle i (n + 1) hidle] at hu
      cases hu
      exact hidle
    · obtain rfl : n = m := by omega
      exact ih hbusy hsel hleft hu

end

/-- A command run on an idle block leaves it idle (R78). -/
theorem runCommand_ends {i : Instr} {s t : State} (hp : s.phase = .idle) (h : runCommand i s = .next t) :
    t.phase = .idle := by
  rw [runCommand_of_idle i hp] at h
  exact execUntilIdle_ends rfl rfl (accept_endsWithin i s) h

/-! ### What an idle EXEC step depends on -/

/-- An idle EXEC step overwrites the working registers before any is read (R74). -/
theorem exec_idle_ignores_registers (i : Instr) {s : State} (hp : s.phase = .idle) (c : Select) (v a : Word)
    (x : BitVec 6) : exec i { s with sel := c, w := v, acc := a, idx := x } = exec i s := by
  rw [exec_idle i s hp, exec_idle i { s with sel := c, w := v, acc := a, idx := x } hp]
  rfl

end Sys2Proof.Machine
end

section
/-! CERTIFICATE. A result depends on the command alone (00_scope.md R3). -/

namespace Sys2Proof.Machine

/-- Settles O23: two runs of a command go alike once it is accepted, and a command run before leaves the block idle
with its table complete. -/
theorem resultDependsOnOperandOnly : Obligations.ResultDependsOnOperandOnly := by
  unfold Obligations.ResultDependsOnOperandOnly
  refine ⟨fun i s s' hs hs' hcs hcs' => commandResult_eq_of_complete i hs hs' hcs hcs', fun i j s t hs hcs hj => ?_,
    fun i s c v a x hs => exec_idle_ignores_registers i hs c v a x⟩
  have hidle : t.phase = .idle := runCommand_ends hs hj
  have hcomplete : TableComplete t := runCommand_keeps_tableComplete hs hcs hj
  exact commandResult_eq_of_complete i hidle hs hcomplete hcs

end Sys2Proof.Machine
end

section
/-! SUPPORT. What the elements of the state depend on, and what keeps them: the bits of the masks, `lut_ready` through
every turn, the reset event as a step, and the steps that carry the unspecified registers through unread. -/

namespace Sys2Proof.Machine

/-! ### The masks -/

/-- The set bits of a mask are the low half of each period (R21). -/
theorem mask_getLsbD : ∀ k : Fin 5, ∀ j < 32, (mask k).getLsbD j = decide (j % 2 ^ (k.val + 1) < 2 ^ k.val) := by
  decide

theorem popcount_mask : ∀ k : Fin 5, popcount (mask k) = 16 := by decide

/-- Bits of a mask one period apart are equal: their positions have the same place in the period (R21). -/
theorem mask_getLsbD_add_period (k : Fin 5) {j : Nat} (hj : j < 32) (hp : j + 2 ^ (k.val + 1) < 32) :
    (mask k).getLsbD j = (mask k).getLsbD (j + 2 ^ (k.val + 1)) := by
  rw [mask_getLsbD k j hj, mask_getLsbD k _ hp, Nat.add_mod_right]

/-! ### `lut_ready` -/

theorem lutReady_iff (s : State) : s.lutReady = true ↔ s.initIdx = 256#9 := decide_eq_true_iff

theorem lutReady_congr {s t : State} (h : t.initIdx = s.initIdx) : t.lutReady = s.lutReady := by
  simp only [State.lutReady, h]

/-- Where the table is as constructed so far, it is complete exactly when no entry is unwritten: entry `INIT_IDX` is
the first unwritten one, if there is one (R24, R26). -/
theorem TableInv.lutReady_iff_written {s : State} (h : TableInv s) :
    s.lutReady = true ↔ ∀ n < 256, s.lut.read n ≠ none := by
  constructor
  · intro hready n hn
    have hidx : s.initIdx = 256#9 := (lutReady_iff s).mp hready
    have hlt : n < s.initIdx.toNat := by
      rw [hidx]
      exact hn
    simp [h.entries, hlt]
  · intro hall
    have hnone : s.lut.read s.initIdx.toNat = none := by simp [h.entries]
    have hge : ¬ s.initIdx.toNat < 256 := fun hlt => hall _ hlt hnone
    have hbound := h.bound
    exact (lutReady_iff s).mpr (BitVec.eq_of_toNat_eq (show s.initIdx.toNat = 256 by omega))

/-- No LUTINIT step is enabled once the table is complete (R80). -/
theorem lutinitStep_of_lutReady {s : State} (h : s.lutReady = true) : lutinitStep s = .next s := by
  have hdisabled : s.lutinitEnabled = false := by simp [State.lutinitEnabled, (lutReady_iff s).mp h]
  simp [lutinitStep, hdisabled]

/-- No turn of EXEC writes the table (R37). -/
theorem execTurn_keeps_table {s t : State} (h : execTurn s = .next t) : t.lut = s.lut ∧ t.initIdx = s.initIdx := by
  rcases execTurn_cases h with ⟨-, he⟩ | ⟨-, -, he⟩ | ⟨-, -, rfl⟩
  · exact exec_keeps_table he
  · exact exec_keeps_table (s := s.takeCommand) he
  · exact ⟨rfl, rfl⟩

/-- No move of the host but the reset event touches `INIT_IDX` (R98). -/
theorem hostMove_initIdx {m : HostMove} (hm : m ≠ .assertReset) (s : State) :
    (hostMove m s).initIdx = s.initIdx := by
  cases m with
  | assertReset => exact absurd rfl hm
  | releaseReset => rfl
  | drive valid sel value => rfl
  | read => rfl

/-- Once 1, `lut_ready` stays 1 through every step but the reset event (R26). -/
theorem step_keeps_lutReady {s t : State} (hready : s.lutReady = true) (hr : s.resets = false)
    (h : step s = .next t) : t.lutReady = true := by
  have hdrop : s.dropTurn.lutReady = true := hready
  rcases step_cases h with ⟨m, hm, rfl⟩ | ⟨-, -, -, rfl⟩ | ⟨-, -, -, he⟩ | ⟨-, -, -, hl⟩
  · have hne : m ≠ .assertReset := by
      rintro rfl
      simp [State.resets, hm] at hr
    rw [lutReady_congr (hostMove_initIdx hne _)]
    exact hdrop
  · exact hdrop
  · rw [lutReady_congr (execTurn_keeps_table he).2]
    exact hdrop
  · rw [lutinitStep_of_lutReady hdrop] at hl
    cases hl
    exact hdrop

/-! ### The reset event as a step -/

/-- A step that resets is the reset event, with `rst` left asserted (R101). -/
theorem step_of_resets {s : State} (h : s.resets = true) : step s = .next ((resetEvent s.dropTurn).setRst true) := by
  have hn : s.nextTurn = .host .assertReset := of_decide_eq_true h
  simp only [step, takeTurn, hn, hostMove]

/-- Without LUT_PRELOADED a reset event leaves every entry unwritten (R31). -/
theorem resetEvent_table_of_not_preloaded {s : State} (h : s.params.lutPreloaded = false) :
    (resetEvent s).initIdx = 0#9 ∧ ∀ n, (resetEvent s).lut.read n = none := by
  simp [h, Memory.read]

/-- With LUT_PRELOADED a reset event leaves the finished table (R24, R31). -/
theorem resetEvent_table_of_preloaded {s : State} (h : s.params.lutPreloaded = true) :
    (resetEvent s).initIdx = 256#9 ∧
      ∀ n < 256, (resetEvent s).lut.read n = some (BitVec.ofNat 8 (popcount (BitVec.ofNat 8 n))) := by
  refine ⟨by simp [h], fun n hn => ?_⟩
  rw [resetEvent_lut, if_pos h, fullTable_read, if_pos hn]

/-! ### Steps that carry the unspecified registers through -/

/-- A change of the state that a read of the table neither sees nor undoes is there after the read as before it. -/
theorem lutLoad_of_unseen {f : State → State} {s : State} {a : Byte} (hentry : (f s).lutEntry a = s.lutEntry a)
    (hparams : (f s).params = s.params) (hdraws : (f s).draws = s.draws)
    (hnote : (f s).noteUnwritten a = f (s.noteUnwritten a)) :
    lutLoad (f s) a = (lutLoad s a).map (Prod.map id f) := by
  simp only [lutLoad, hentry, hparams, hdraws, hnote]
  cases s.lutEntry a with
  | some b => rfl
  | none => cases s.params.onUnwritten <;> rfl

theorem lutLoad_withRes (s : State) (a : Byte) (r : Word) :
    lutLoad (s.withRes r) a = (lutLoad s a).map (Prod.map id fun u => u.withRes r) :=
  lutLoad_of_unseen (f := fun u => u.withRes r) rfl rfl rfl rfl

theorem lutLoad_withDatapath (s : State) (addr : Byte) (c : Select) (v a r : Word) (x : BitVec 6) :
    lutLoad (s.withDatapath c v a x r) addr = (lutLoad s addr).map (Prod.map id fun u => u.withDatapath c v a x r) :=
  lutLoad_of_unseen (f := fun u => u.withDatapath c v a x r) rfl rfl rfl rfl

/-- A TABLE lookup carries `RES` through, unread. -/
theorem tableIterate_withRes (s : State) (r : Word) :
    tableIterate (s.withRes r) = mapNext (fun u => u.withRes r) (tableIterate s) := by
  have haddr : (s.withRes r).laneAddr = s.laneAddr := rfl
  simp only [tableIterate, haddr, lutLoad_withRes]
  cases lutLoad s s.laneAddr <;> rfl

/-- From round 5 on no PARALLEL round is left (R69). -/
theorem parallelIterate_of_not_lt {s : State} (h : ¬ s.idx.toNat < 5) : parallelIterate s = s := dif_neg h

/-- A PARALLEL round carries `RES` through, unread. -/
theorem parallelIterate_withRes (s : State) (r : Word) :
    parallelIterate (s.withRes r) = (parallelIterate s).withRes r := by
  by_cases h : s.idx.toNat < 5
  · rw [parallelIterate_of_lt s h, parallelIterate_of_lt (s.withRes r) h]
    rfl
  · rw [parallelIterate_of_not_lt h, parallelIterate_of_not_lt (s := s.withRes r) h]

/-- Where the iterate step carries `RES` through, an EXEC step does so too or, where it completes the command,
overwrites `RES` (R74 to R76). -/
theorem strategyStep_withRes (i : Instr) (more finished : Bool) {iterate iterate' : StepResult} (s : State) (r : Word)
    (hit : iterate' = mapNext (fun u => u.withRes r) iterate) :
    strategyStep i more finished iterate' (s.withRes r) = strategyStep i more finished iterate s ∨
      strategyStep i more finished iterate' (s.withRes r) =
        mapNext (fun u => u.withRes r) (strategyStep i more finished iterate s) := by
  simp only [strategyStep, withRes_phase, withRes_sel]
  cases s.phase with
  | idle => exact .inr rfl
  | busy =>
    by_cases hsel : s.sel = i.sel
    · simp only [hsel, if_true]
      cases more with
      | true => exact .inr hit
      | false =>
        cases finished with
        | true => exact .inl rfl
        | false => exact .inr rfl
    · simp only [hsel, if_false]
      exact .inr rfl

/-- No EXEC step reads `RES`: it overwrites it or carries it through (R18). -/
theorem exec_withRes (i : Instr) (s : State) (r : Word) :
    exec i (s.withRes r) = exec i s ∨ exec i (s.withRes r) = mapNext (fun u => u.withRes r) (exec i s) := by
  cases i with
  | naive1 v => exact strategyStep_withRes _ _ _ s r rfl
  | naive2 v => exact strategyStep_withRes _ _ _ s r rfl
  | table v => exact strategyStep_withRes _ _ _ s r (tableIterate_withRes s r)
  | parallel v => exact strategyStep_withRes _ _ _ s r (congrArg Host.Outcome.next (parallelIterate_withRes s r))

/-- An idle EXEC step reads none of the five registers: it overwrites four and carries `RES` through (R74). -/
theorem exec_idle_withDatapath (i : Instr) {s : State} (hp : s.phase = .idle) (c : Select) (v a r : Word)
    (x : BitVec 6) : exec i (s.withDatapath c v a x r) = mapNext (fun u => u.withRes r) (exec i s) := by
  rw [exec_idle i s hp, exec_idle i (s.withDatapath c v a x r) hp]
  rfl

/-- The LUTINIT step carries the five registers through, unread (R80). -/
theorem lutinitStep_withDatapath (s : State) (c : Select) (v a r : Word) (x : BitVec 6) :
    lutinitStep (s.withDatapath c v a x r) = mapNext (fun u => u.withDatapath c v a x r) (lutinitStep s) := by
  have henabled : (s.withDatapath c v a x r).lutinitEnabled = s.lutinitEnabled := rfl
  simp only [lutinitStep, henabled, withDatapath_initIdx, lutLoad_withDatapath]
  by_cases he : s.lutinitEnabled = true
  · by_cases h0 : s.initIdx = 0#9
    · simp only [he, h0, if_true]
      rfl
    · simp only [he, h0, if_true, if_false]
      cases lutLoad s ((s.initIdx >>> 1).setWidth 8) <;> rfl
  · simp only [he]
    rfl

/-- `rsp_count` does not show `RES` while `rsp_valid` is 0 (R28). -/
theorem rspCount_withRes_of_not_valid {s : State} (h : s.rspValid = false) (r : Word) :
    (s.withRes r).rspCount = s.rspCount := by
  have hv : s.resValid = false := h
  simp [State.rspCount, hv]

end Sys2Proof.Machine
end

section
/-! CERTIFICATE. The elements of the state: the masks (10_state.md R21), `lut_ready` (R26) and the reset values (R31). -/

namespace Sys2Proof.Machine

/-- Settles O35: `lut_ready` depends on `INIT_IDX` alone, which only LUTINIT, not enabled at 256, and a reset change. -/
theorem lutReadyMeansComplete : Obligations.LutReadyMeansComplete := by
  unfold Obligations.LutReadyMeansComplete
  exact ⟨fun s => ⟨lutReady_iff s, TableInv.lutReady_iff_written⟩, fun s t => step_keeps_lutReady,
    fun v s hp => ⟨accept (.table v) s, exec_idle _ s hp, rfl, rfl⟩⟩

/-- Settles O28: the law of the bits gives the period; the count is that of the five constants. -/
theorem masksFollowTheirLaw : Obligations.MasksFollowTheirLaw := by
  unfold Obligations.MasksFollowTheirLaw
  exact fun k => ⟨popcount_mask k, fun j hj hp => mask_getLsbD_add_period k hj hp, mask_getLsbD k⟩

/-- Settles O44: the reset event takes the values of the table of R31, and each kind of step commutes with a change of
the registers that hold none. -/
theorem resetEventTakesResetValues : Obligations.ResetEventTakesResetValues := by
  unfold Obligations.ResetEventTakesResetValues
  refine ⟨fun s hr => ⟨_, step_of_resets hr, rfl, rfl, fun hp => ?_, fun hp => ?_, rfl, rfl, rfl, rfl, rfl, rfl, rfl⟩,
    fun i s c v a r x hp => exec_idle_withDatapath i hp c v a r x, exec_withRes, lutinitStep_withDatapath,
    fun s r hv => rspCount_withRes_of_not_valid hv r⟩
  · obtain ⟨hidx, hread⟩ := resetEvent_table_of_not_preloaded (s := s.dropTurn) hp
    exact ⟨hidx, hread, by simp [State.lutReady, hp]⟩
  · obtain ⟨hidx, hread⟩ := resetEvent_table_of_preloaded (s := s.dropTurn) hp
    exact ⟨hidx, (lutReady_iff _).mpr hidx, hread⟩

end Sys2Proof.Machine
end

section
/-! SUPPORT. The decoder through the two fields of a command word (30_encoding.md R48, R49): a word is its fields in
concatenation, decoding is injective on them, and the mask of the opcode map keeps the select field alone. -/

namespace Sys2Proof

open Sys2Proof.Laws

/-- The command of a select and an operand has that select (R49). -/
@[simp] theorem Instr.sel_ofSel : ∀ (c : Select) (v : Word), (Instr.ofSel c v).sel = c
  | 0#2, _ => rfl
  | 1#2, _ => rfl
  | 2#2, _ => rfl
  | 3#2, _ => rfl

/-- The command of a select and an operand has that operand (R50). -/
@[simp] theorem Instr.value_ofSel : ∀ (c : Select) (v : Word), (Instr.ofSel c v).value = v
  | 0#2, _ => rfl
  | 1#2, _ => rfl
  | 2#2, _ => rfl
  | 3#2, _ => rfl

/-- A command is determined by its select and its operand (R48). -/
@[simp] theorem Instr.ofSel_sel_value (i : Instr) : Instr.ofSel i.sel i.value = i := by
  cases i <;> rfl

theorem selField_append (c : Select) (v : Word) : selField (c ++ v) = c := (EncodedFields.fields_of_append c v).1

theorem valueField_append (c : Select) (v : Word) : valueField (c ++ v) = v := (EncodedFields.fields_of_append c v).2

/-- The two fields cover the whole word (R48). -/
theorem selField_append_valueField (word : CommandWord) : selField word ++ valueField word = word :=
  BitVec.extractLsb'_append_extractLsb'_eq_extractLsb' (by decide) |>.trans BitVec.extractLsb'_eq_self

/-- A concatenation of a select and an operand decodes to their command (R49). -/
@[simp] theorem decode_append (c : Select) (v : Word) : decode (c ++ v) = Instr.ofSel c v := by
  rw [decode, selField_append, valueField_append]

/-- A word decodes to a command exactly when its fields are the command's select and operand (R48, R49). -/
theorem decode_eq_iff {word : CommandWord} {i : Instr} :
    decode word = i ↔ selField word = i.sel ∧ valueField word = i.value := by
  constructor
  · rintro rfl
    exact ⟨(Instr.sel_ofSel _ _).symm, (Instr.value_ofSel _ _).symm⟩
  · rintro ⟨hsel, hvalue⟩
    rw [decode, hsel, hvalue, Instr.ofSel_sel_value]

/-- The mask of the opcode map keeps the select field and clears the value field (R49). -/
theorem and_selMask (word : CommandWord) : word &&& 0x300000000#34 = selField word ++ 0#32 := by
  have hmask : 0x300000000#34 = BitVec.allOnes 2 ++ 0#32 := by decide
  calc word &&& 0x300000000#34
      = (selField word ++ valueField word) &&& (BitVec.allOnes 2 ++ 0#32) := by
        rw [selField_append_valueField, hmask]
    _ = (selField word &&& BitVec.allOnes 2) ++ (valueField word &&& 0#32) := BitVec.and_append
    _ = selField word ++ 0#32 := by rw [BitVec.and_allOnes, BitVec.and_zero]

/-- A word matches a row of the opcode map exactly when its select field is the row's (R49). -/
theorem and_selMask_eq_iff {word : CommandWord} {c : Select} :
    word &&& 0x300000000#34 = c ++ 0#32 ↔ selField word = c := by
  rw [and_selMask]
  constructor
  · intro h
    simpa only [selField_append] using congrArg selField h
  · rintro rfl
    rfl

/-- A word matches the row of a command's operation exactly when it decodes to that operation on its value field; the
row's match word is the operation's select over a zero value field (R49). -/
theorem and_selMask_eq_iff_decode {word row : CommandWord} {i : Instr} (c : Select) (hrow : row = c ++ 0#32)
    (hsel : i.sel = c) (hvalue : valueField word = i.value) :
    word &&& 0x300000000#34 = row ↔ decode word = i := by
  rw [hrow, and_selMask_eq_iff, decode_eq_iff, hsel, and_iff_left hvalue]

end Sys2Proof
end

section
/-! CERTIFICATE. The encoding of the commands: the select field and the opcode map (30_encoding.md R49). -/

namespace Sys2Proof

/-- Settles O1: a word is its two fields, and the mask of the opcode map keeps the select field alone. -/
theorem selectFieldChoosesOperation : Obligations.SelectFieldChoosesOperation := by
  unfold Obligations.SelectFieldChoosesOperation
  exact ⟨fun v => ⟨decode_append 0#2 v, decode_append 1#2 v, decode_append 2#2 v, decode_append 3#2 v⟩,
    fun word => ⟨and_selMask_eq_iff_decode 0#2 (by decide) rfl rfl, and_selMask_eq_iff_decode 1#2 (by decide) rfl rfl,
      and_selMask_eq_iff_decode 2#2 (by decide) rfl rfl, and_selMask_eq_iff_decode 3#2 (by decide) rfl rfl⟩⟩

end Sys2Proof
end

section
/-! SUPPORT. One EXEC step on the command in flight by the dispatch (R75): the iterate step under the iterate
condition, the complete step under the end condition, and the working registers untouched without an iteration. -/

namespace Sys2Proof.Machine

variable {i : Instr} {s t : State}

theorem strategyStep_of_more {finished : Bool} {iterate : StepResult} (hp : s.phase = .busy) (hi : s.sel = i.sel) :
    strategyStep i true finished iterate s = iterate := by
  simp [strategyStep, hp, hi]

theorem strategyStep_of_finished {iterate : StepResult} (hp : s.phase = .busy) (hi : s.sel = i.sel) :
    strategyStep i false true iterate s = .next (complete s) := by
  simp [strategyStep, hp, hi]

theorem iterateCondition_naive1 (h : s.sel = 0#2) : s.iterateCondition = decide (s.idx < 32#6) := by
  simp only [State.iterateCondition, h]

/-- Below 32 an EXEC step on the NAIVE1 command in flight is its iterate step (R59, R75). -/
theorem exec_naive1_of_lt (v : Word) (hp : s.phase = .busy) (hs : s.sel = 0#2) (hlt : s.idx < 32#6) :
    exec (.naive1 v) s = .next (naive1Iterate s) := by
  simp only [exec, execNaive1, hlt, decide_true]
  exact strategyStep_of_more hp hs

/-- At 32 an EXEC step on the NAIVE1 command in flight is the complete step (R60, R75). -/
theorem exec_naive1_of_eq (v : Word) (hp : s.phase = .busy) (hs : s.sel = 0#2) (h32 : s.idx = 32#6) :
    exec (.naive1 v) s = .next (complete s) := by
  simp only [exec, execNaive1, h32, decide_true]
  exact strategyStep_of_finished hp hs

/-- Without an iteration an EXEC step on a command in flight leaves `W`, `ACC` and `IDX` as they are, whether it
completes the command, or waits, or is not enabled. -/
theorem exec_keeps_registers_of_no_iteration (hp : s.phase = .busy) (hm : s.iterateCondition = false)
    (h : exec i s = .next t) : t.w = s.w ∧ t.acc = s.acc ∧ t.idx = s.idx := by
  rcases exec_cases h with ⟨hidle, -⟩ | ⟨-, -, rfl⟩ | ⟨-, -, -, -, rfl⟩ | ⟨-, -, -, -, rfl⟩ | ⟨-, -, hs, hlt, -⟩ |
    ⟨-, -, hs, hw, -⟩ | ⟨-, -, hs, hlt, -⟩ | ⟨-, -, hs, hlt, -⟩
  · simp [hp] at hidle
  · exact ⟨rfl, rfl, rfl⟩
  · exact ⟨rfl, rfl, rfl⟩
  · exact ⟨rfl, rfl, rfl⟩
  · simp [State.iterateCondition, hs, hlt] at hm
  · simp [State.iterateCondition, hs, hw] at hm
  · simp [State.iterateCondition, hs, hlt] at hm
  · simp [State.iterateCondition, hs, hlt] at hm

@[simp] theorem andThen_next (s : State) (f : State → StepResult) : andThen (.next s) f = f s := rfl

/-- `n + 1` EXEC steps are one step and `n` after it. -/
theorem execTimes_succ (i : Instr) (n : Nat) (s : State) :
    execTimes i (n + 1) s = andThen (exec i s) (execTimes i n) := by
  simp only [execTimes, andThen]
  cases exec i s <;> rfl

end Sys2Proof.Machine
end

section
/-! SUPPORT. NAIVE1 as a whole (40_naive1.md R58): the loop of the pseudocode counts the 1 bits, and the iterate steps
are the passes of that loop. -/

namespace Sys2Proof.Machine

/-- The bit added by an iteration is bit `i` of the operand (R51 a, b). -/
theorem testedBit_eq (v : Word) (i : Nat) : testedBit v i = BitVec.ofNat 32 (v.getLsbD i).toNat := by
  rw [testedBit, BitVec.and_one_eq_setWidth_ofBool_getLsbD, BitVec.getLsbD_ushiftRight, Nat.add_zero]
  cases v.getLsbD i <;> rfl

/-- `n` passes of the loop count the 1 bits among the lowest `n` (R58). -/
theorem naive1Loop_eq (v : Word) (n : Nat) : naive1Loop v n = BitVec.ofNat 32 (onesBelow v n) := by
  induction n with
  | zero => rfl
  | succ n ih => rw [naive1Loop, onesBelow, ih, testedBit_eq, BitVec.ofNat_add]

/-- NAIVE1 as a function is the popcount (R58). -/
theorem naive1Count_eq (v : Word) : naive1Count v = BitVec.ofNat 32 (popcount v) := naive1Loop_eq v 32

/-- `s` with NAIVE1 on `v` in flight after `n` iterations (R32 b). -/
def State.naive1After (s : State) (v : Word) (n : Nat) : State :=
  { s with
    phase := .busy, sel := 0#2, w := v, acc := naive1Loop v n, idx := BitVec.ofNat 6 n, resValid := false }

theorem accept_naive1 (v : Word) (s : State) : accept (.naive1 v) s = s.naive1After v 0 := rfl

/-- The complete step delivers the loop's value (R60). -/
theorem complete_naive1After (v : Word) (s : State) (n : Nat) :
    complete (s.naive1After v n) = { s with
      phase := .idle, sel := 0#2, w := v, acc := naive1Loop v n, idx := BitVec.ofNat 6 n
      res := naive1Loop v n, resValid := true } := rfl

/-- An iterate step is the next pass of the loop (R59). -/
theorem exec_naive1After (u v : Word) (s : State) {n : Nat} (hn : n < 32) :
    exec (.naive1 u) (s.naive1After v n) = .next (s.naive1After v (n + 1)) := by
  have hidx : (BitVec.ofNat 6 n).toNat = n := by
    rw [BitVec.toNat_ofNat, Nat.mod_eq_of_lt (by omega)]
  have hlt : (s.naive1After v n).idx < 32#6 := by
    rw [BitVec.lt_def]
    exact hidx.trans_lt hn
  rw [exec_naive1_of_lt u rfl rfl hlt]
  simp only [State.naive1After, naive1Iterate, naive1Loop, hidx, BitVec.ofNat_add]

/-- From any iteration on, the iterations that are left and the complete step end the command (R58, R60). -/
theorem execTimes_naive1After (u v : Word) (s : State) {k n : Nat} (h : k + n = 32) :
    execTimes (.naive1 u) (n + 1) (s.naive1After v k) = .next (complete (s.naive1After v 32)) := by
  induction n generalizing k with
  | zero =>
    obtain rfl : k = 32 := h
    rw [execTimes_succ, exec_naive1_of_eq u rfl rfl rfl]
    rfl
  | succ n ih =>
    rw [execTimes_succ, exec_naive1After u v s (by omega), andThen_next]
    exact ih (by omega)

end Sys2Proof.Machine
end

section
/-! CERTIFICATE. NAIVE1 (40_naive1.md R58, R59). -/

namespace Sys2Proof.Machine

/-- Settles O16: the accept step starts the loop at 0 passes, each iteration is one pass, and 32 passes count all
positions. -/
theorem naive1CountsAllPositions : Obligations.Naive1CountsAllPositions := by
  unfold Obligations.Naive1CountsAllPositions
  refine fun v s hp => ⟨decode_append 0#2 v, naive1Count_eq v, ?_⟩
  have hcount : naive1Loop v 32 = BitVec.ofNat 32 (popcount v) := naive1Count_eq v
  rw [execTimes_succ, exec_idle _ s hp, accept_naive1, andThen_next, execTimes_naive1After v v s (by omega),
    complete_naive1After, hcount]

/-- Settles O10: below 32 the step is the iterate step; from 32 on there is no iteration, and nothing else writes `ACC`
or `IDX` of a command in flight. -/
theorem naive1IterateAddsBitIdx : Obligations.Naive1IterateAddsBitIdx := by
  unfold Obligations.Naive1IterateAddsBitIdx
  refine fun v s hp hs => ⟨fun hlt => exec_naive1_of_lt v hp hs hlt, fun hge t ht => ?_⟩
  have hm : s.iterateCondition = false := (iterateCondition_naive1 hs).trans (decide_eq_false hge)
  obtain ⟨-, hacc, hidx⟩ := exec_keeps_registers_of_no_iteration hp hm ht
  exact ⟨hacc, hidx⟩

end Sys2Proof.Machine
end

section
/-! SUPPORT. The length of an operand (R8 `bitlen`): it bounds the positions of the 1 bits, so that a shift by it or by
more leaves zero and no 1 bit is counted above it. -/

namespace Sys2Proof.Machine

/-- The length is at most `k` exactly when no bit at or above `k` is 1. -/
theorem bitlenBelow_le_iff {width : Nat} (v : BitVec width) (n k : Nat) :
    bitlenBelow v n ≤ k ↔ ∀ j < n, k ≤ j → v.getLsbD j = false := by
  induction n with
  | zero => simp [bitlenBelow]
  | succ n ih =>
    rw [Nat.forall_lt_succ_right, bitlenBelow]
    cases hbit : v.getLsbD n with
    | true => simpa using fun hn j _ hj => absurd hj (by omega)
    | false => simpa using ih

theorem bitlen_le_width {width : Nat} (v : BitVec width) : bitlen v ≤ width :=
  (bitlenBelow_le_iff v width width).mpr fun j hj hge => absurd hge (by omega)

/-- A shift leaves zero exactly when it is by the operand's length or more (R63). -/
theorem ushiftRight_eq_zero_iff {width : Nat} (v : BitVec width) (k : Nat) : v >>> k = 0#width ↔ bitlen v ≤ k := by
  rw [bitlen, bitlenBelow_le_iff]
  constructor
  · intro hzero j _ hj
    have hbit : (v >>> k).getLsbD (j - k) = false := by rw [hzero, BitVec.getLsbD_zero]
    rwa [BitVec.getLsbD_ushiftRight, Nat.add_sub_cancel' hj] at hbit
  · intro hbits
    refine BitVec.eq_of_getLsbD_eq fun j _ => ?_
    rw [BitVec.getLsbD_ushiftRight, BitVec.getLsbD_zero]
    by_cases hlt : k + j < width
    · exact hbits (k + j) hlt (Nat.le_add_right k j)
    · exact BitVec.getLsbD_of_ge v (k + j) (not_lt.mp hlt)

theorem ushiftRight_bitlen {width : Nat} (v : BitVec width) : v >>> bitlen v = 0#width :=
  (ushiftRight_eq_zero_iff v _).mpr le_rfl

theorem bitlen_eq_zero_iff {width : Nat} (v : BitVec width) : bitlen v = 0 ↔ v = 0#width := by
  rw [← Nat.le_zero, ← ushiftRight_eq_zero_iff, BitVec.ushiftRight_zero]

/-- No 1 bit is left to count from the operand's length on: "the bits never tested are those above the highest set
bit" (R63). -/
theorem onesBelow_of_bitlen_le {width : Nat} (v : BitVec width) {k : Nat} (hk : bitlen v ≤ k) (hw : k ≤ width) :
    onesBelow v k = popcount v := by
  have hbits : ∀ j < width, k ≤ j → v.getLsbD j = false := (bitlenBelow_le_iff v width k).mp hk
  have hcount : ∀ n, k ≤ n → n ≤ width → onesBelow v n = onesBelow v k := fun n hn => by
    induction n, hn using Nat.le_induction with
    | base => exact fun _ => rfl
    | succ n hn ih =>
      intro hlt
      rw [onesBelow, ih (by omega), hbits n hlt hn]
      rfl
  exact (hcount width hw le_rfl).symm

end Sys2Proof.Machine
end

section
/-! SUPPORT. NAIVE2 as a whole (41_naive2.md R61 to R63): the iterate steps are the passes of the pseudocode's loop, and
both stop where the operand has been shifted to zero. -/

namespace Sys2Proof.Machine

/-- The low bit after a shift is the bit the shift brought there (R51 a, b). -/
theorem testedBit_ushiftRight (v : Word) (n : Nat) : testedBit (v >>> n) 0 = testedBit v n := rfl

/-- Adding the low bit of the operand shifted by `n` to the 1 bits below `n` counts the 1 bits below `n + 1`. -/
theorem ofNat_onesBelow_add_testedBit (v : Word) (n : Nat) :
    BitVec.ofNat 32 (onesBelow v n) + testedBit (v >>> n) 0 = BitVec.ofNat 32 (onesBelow v (n + 1)) := by
  rw [testedBit_ushiftRight, testedBit_eq, onesBelow, BitVec.ofNat_add]

/-- From any pass on, the loop ends with the 1 bits of the whole operand (R61): it runs out of passes at 32, or finds
the remaining value zero before. -/
theorem naive2Loop_eq (v : Word) {k n : Nat} (h : k + n = 32) :
    naive2Loop n (BitVec.ofNat 32 (onesBelow v k)) (v >>> k) = BitVec.ofNat 32 (popcount v) := by
  induction n generalizing k with
  | zero =>
    obtain rfl : k = 32 := h
    rfl
  | succ n ih =>
    rw [naive2Loop]
    by_cases hzero : v >>> k = 0#32
    · rw [if_pos hzero, onesBelow_of_bitlen_le v ((ushiftRight_eq_zero_iff v k).mp hzero) (by omega)]
    · rw [if_neg hzero, ofNat_onesBelow_add_testedBit, ← BitVec.shiftRight_add]
      exact ih (by omega)

/-- NAIVE2 as a function is the popcount (R61). -/
theorem naive2Count_eq (v : Word) : naive2Count v = BitVec.ofNat 32 (popcount v) :=
  naive2Loop_eq v (Nat.zero_add 32)

theorem iterateCondition_naive2 {s : State} (h : s.sel = 1#2) : s.iterateCondition = decide (s.w ≠ 0#32) := by
  simp only [State.iterateCondition, h]

/-- While `W` is not 0 an EXEC step on the NAIVE2 command in flight is its iterate step (R62, R75). -/
theorem exec_naive2_of_ne {s : State} (v : Word) (hp : s.phase = .busy) (hs : s.sel = 1#2) (hw : s.w ≠ 0#32) :
    exec (.naive2 v) s = .next (naive2Iterate s) := by
  simp only [exec, execNaive2, decide_eq_true hw]
  exact strategyStep_of_more hp hs

/-- At `W` = 0 an EXEC step on the NAIVE2 command in flight is the complete step (R63, R75). -/
theorem exec_naive2_of_eq {s : State} (v : Word) (hp : s.phase = .busy) (hs : s.sel = 1#2) (hw : s.w = 0#32) :
    exec (.naive2 v) s = .next (complete s) := by
  simp only [exec, execNaive2, hw, ne_eq, not_true_eq_false, decide_false, decide_true]
  exact strategyStep_of_finished hp hs

/-- `s` with NAIVE2 on `v` in flight after `n` iterations (R32 c). -/
def State.naive2After (s : State) (v : Word) (n : Nat) : State :=
  { s with
    phase := .busy, sel := 1#2, w := v >>> n, acc := BitVec.ofNat 32 (onesBelow v n), idx := 0#6, resValid := false }

theorem accept_naive2 (v : Word) (s : State) : accept (.naive2 v) s = s.naive2After v 0 := rfl

/-- An iterate step shifts once more and counts one more bit (R62). -/
theorem naive2Iterate_naive2After (v : Word) (s : State) (n : Nat) :
    naive2Iterate (s.naive2After v n) = s.naive2After v (n + 1) := by
  simp only [naive2Iterate, State.naive2After, ofNat_onesBelow_add_testedBit, BitVec.shiftRight_add]

/-- After as many iterations as the operand is long the complete step delivers its popcount, with `W` at 0 (R63). -/
theorem complete_naive2After_bitlen (v : Word) (s : State) :
    complete (s.naive2After v (bitlen v)) = { s with
      phase := .idle, sel := 1#2, w := 0#32, acc := BitVec.ofNat 32 (popcount v), idx := 0#6
      res := BitVec.ofNat 32 (popcount v), resValid := true } := by
  have hacc : onesBelow v (bitlen v) = popcount v := onesBelow_of_bitlen_le v le_rfl (bitlen_le_width v)
  rw [State.naive2After, ushiftRight_bitlen, hacc]
  rfl

/-- From any iteration on, the iterations that are left and the complete step end the command (R61, R63). -/
theorem execTimes_naive2After (u v : Word) (s : State) {k n : Nat} (h : k + n = bitlen v) :
    execTimes (.naive2 u) (n + 1) (s.naive2After v k) = .next (complete (s.naive2After v (bitlen v))) := by
  induction n generalizing k with
  | zero =>
    obtain rfl : k = bitlen v := h
    rw [execTimes_succ, exec_naive2_of_eq u rfl rfl (ushiftRight_bitlen v)]
    rfl
  | succ n ih =>
    have hw : v >>> k ≠ 0#32 := fun hzero => absurd ((ushiftRight_eq_zero_iff v k).mp hzero) (by omega)
    rw [execTimes_succ, exec_naive2_of_ne u rfl rfl hw, andThen_next, naive2Iterate_naive2After]
    exact ih (by omega)

end Sys2Proof.Machine
end

section
/-! CERTIFICATE. NAIVE2 (41_naive2.md R61, R62). -/

namespace Sys2Proof.Machine

/-- Settles O17: the accept step starts with no bit counted, each iteration shifts once and counts one bit, and the
operand is shifted to zero after as many iterations as it is long. -/
theorem naive2CountsUntilZero : Obligations.Naive2CountsUntilZero := by
  unfold Obligations.Naive2CountsUntilZero
  refine fun v s hp => ⟨decode_append 1#2 v, naive2Count_eq v, bitlen_le_width v, bitlen_eq_zero_iff v, ?_⟩
  rw [execTimes_succ, exec_idle _ s hp, accept_naive2, andThen_next,
    execTimes_naive2After v v s (Nat.zero_add (bitlen v)), complete_naive2After_bitlen]

/-- Settles O11: while `W` is not 0 the step is the iterate step; at 0 there is no iteration, and nothing else writes
`ACC` or `W` of a command in flight. -/
theorem naive2IterateShiftsW : Obligations.Naive2IterateShiftsW := by
  unfold Obligations.Naive2IterateShiftsW
  refine fun v s hp hs => ⟨fun hw => exec_naive2_of_ne v hp hs hw, fun hw t ht => ?_⟩
  have hm : s.iterateCondition = false := (iterateCondition_naive2 hs).trans (decide_eq_false (not_not_intro hw))
  obtain ⟨hwt, hacc, -⟩ := exec_keeps_registers_of_no_iteration hp hm ht
  exact ⟨hacc, hwt⟩

end Sys2Proof.Machine
end

section
/-! SUPPORT. A round of PARALLEL on the fields of the working value (43_parallel.md R70): the masked summands have no
carry between fields, so the one addition adds each pair of fields, and counts of pairs of fields are counts of the
fields of twice the width. -/

namespace Sys2Proof.Machine

/-! ### The fields of a word -/

/-- A field lies inside the word. -/
theorem succ_mul_le_of_field {k g : Nat} (hg : g < 32 / 2 ^ k) : (g + 1) * 2 ^ k ≤ 32 :=
  (Nat.le_div_iff_mul_le (Nat.two_pow_pos k)).mp hg

theorem getLsbD_field (v : Word) (k g j : Nat) :
    (field v k g).getLsbD j = (decide (j < 2 ^ k) && v.getLsbD (g * 2 ^ k + j)) := BitVec.getLsbD_extractLsb' ..

theorem toNat_field (v : Word) (k g : Nat) : (field v k g).toNat = v.toNat / 2 ^ (g * 2 ^ k) % 2 ^ 2 ^ k := by
  rw [field, BitVec.extractLsb'_toNat, Nat.shiftRight_eq_div_pow]

/-- The one field of 32 bits is the word itself (R71). -/
theorem field_five_zero (v : Word) : field v 5 0 = v := BitVec.extractLsb'_eq_self

/-- A shift by the width of a field brings each field into the place of its lower neighbour (R70). -/
theorem field_ushiftRight (v : Word) (k g : Nat) : field (v >>> 2 ^ k) k g = field v k (g + 1) := by
  refine BitVec.eq_of_getLsbD_eq fun j _ => ?_
  have hplace : 2 ^ k + (g * 2 ^ k + j) = (g + 1) * 2 ^ k + j := by ring
  rw [getLsbD_field, getLsbD_field, BitVec.getLsbD_ushiftRight, hplace]

/-! ### The number of 1 bits in a field -/

/-- The 1 bits below `m + n` are those below `m` and those below `n` after a shift by `m`. -/
theorem onesBelow_add {width : Nat} (v : BitVec width) (m n : Nat) :
    onesBelow v (m + n) = onesBelow v m + onesBelow (v >>> m) n := by
  induction n with
  | zero => rfl
  | succ n ih => rw [← Nat.add_assoc, onesBelow, onesBelow, ih, BitVec.getLsbD_ushiftRight, Nat.add_assoc]

theorem onesBelow_field (v : Word) (k g : Nat) {n : Nat} (hn : n ≤ 2 ^ k) :
    onesBelow (field v k g) n = onesBelow (v >>> (g * 2 ^ k)) n := by
  induction n with
  | zero => rfl
  | succ n ih =>
    have hlt : n < 2 ^ k := hn
    rw [onesBelow, onesBelow, ih hlt.le, getLsbD_field, BitVec.getLsbD_ushiftRight, decide_eq_true hlt, Bool.true_and]

/-- The count of a field is the sum of the counts of the two fields of half its width (R70). -/
theorem popcount_field_succ (v : Word) (k g : Nat) :
    popcount (field v (k + 1) g) = popcount (field v k (2 * g)) + popcount (field v k (2 * g + 1)) := by
  have hlow : g * 2 ^ (k + 1) = 2 * g * 2 ^ k := by ring
  have hhigh : 2 * g * 2 ^ k + 2 ^ k = (2 * g + 1) * 2 ^ k := by ring
  have hwidth : 2 ^ (k + 1) = 2 ^ k + 2 ^ k := by ring
  simp only [popcount, onesBelow_field _ _ _ le_rfl]
  rw [hlow, hwidth, onesBelow_add, ← BitVec.shiftRight_add, hhigh]

/-- A field of one bit holds its own count. -/
theorem popcount_field_zero (v : Word) (g : Nat) : popcount (field v 0 g) = (field v 0 g).toNat :=
  (by decide : ∀ b : BitVec 1, popcount b = b.toNat) (field v 0 g)

/-! ### One round -/

/-- The bit of a masked word at place `j` of field `g`: the low half of the field is kept (R21, R70). -/
theorem getLsbD_and_mask (k : Fin 5) (v : Word) {g j : Nat} (hg : g < 32 / 2 ^ (k.val + 1))
    (hj : j < 2 ^ (k.val + 1)) :
    (v &&& mask k).getLsbD (g * 2 ^ (k.val + 1) + j) =
      (decide (j < 2 ^ k.val) && v.getLsbD (g * 2 ^ (k.val + 1) + j)) := by
  have hin : g * 2 ^ (k.val + 1) + j < 32 := by
    have hend := succ_mul_le_of_field hg
    rw [Nat.succ_mul] at hend
    omega
  rw [BitVec.getLsbD_and, mask_getLsbD k _ hin, Nat.mul_add_mod_self_right, Nat.mod_eq_of_lt hj, Bool.and_comm]

/-- The mask keeps the low field of each pair and clears the high one (R70). -/
theorem field_and_mask (k : Fin 5) (v : Word) {g : Nat} (hg : g < 32 / 2 ^ (k.val + 1)) :
    field (v &&& mask k) (k.val + 1) g = (field v k.val (2 * g)).setWidth (2 ^ (k.val + 1)) := by
  refine BitVec.eq_of_getLsbD_eq fun j hj => ?_
  have hplace : 2 * g * 2 ^ k.val = g * 2 ^ (k.val + 1) := by ring
  rw [getLsbD_field, getLsbD_and_mask k v hg hj, BitVec.getLsbD_setWidth, getLsbD_field, hplace]

theorem toNat_field_and_mask (k : Fin 5) (v : Word) {g : Nat} (hg : g < 32 / 2 ^ (k.val + 1)) :
    (field (v &&& mask k) (k.val + 1) g).toNat = (field v k.val (2 * g)).toNat := by
  have hle : 2 ^ k.val ≤ 2 ^ (k.val + 1) := Nat.pow_le_pow_right (by decide) (Nat.le_succ _)
  rw [field_and_mask k v hg, BitVec.toNat_setWidth_of_le hle]

/-- With bit `b` clear, the part of a number below `2^(b+1)` is less than half of that. -/
theorem two_mul_mod_lt_of_testBit {x b : Nat} (h : x.testBit b = false) : 2 * (x % 2 ^ (b + 1)) < 2 ^ (b + 1) := by
  have hlt : x % 2 ^ b < 2 ^ b := Nat.mod_lt _ (Nat.two_pow_pos b)
  rw [Nat.mod_pow_succ, ← Nat.toNat_testBit, h, Bool.toNat_false, pow_succ]
  omega

/-- Below every boundary between fields a masked word is less than half of what fits there, as the mask clears the bit
under the boundary. -/
theorem two_mul_and_mask_mod_lt (k : Fin 5) (v : Word) {n : Nat} (hn : n ≤ 32 / 2 ^ (k.val + 1)) :
    2 * ((v &&& mask k).toNat % 2 ^ (n * 2 ^ (k.val + 1))) < 2 ^ (n * 2 ^ (k.val + 1)) := by
  cases n with
  | zero => simp [Nat.mod_one]
  | succ g =>
    have hhalf : 2 ^ (k.val + 1) = 2 ^ k.val + 2 ^ k.val := by ring
    have hpos : 0 < 2 ^ k.val := Nat.two_pow_pos _
    have htop : (g + 1) * 2 ^ (k.val + 1) = g * 2 ^ (k.val + 1) + (2 ^ (k.val + 1) - 1) + 1 := by
      rw [Nat.succ_mul]
      omega
    have hbit : (v &&& mask k).toNat.testBit (g * 2 ^ (k.val + 1) + (2 ^ (k.val + 1) - 1)) = false := by
      rw [BitVec.testBit_toNat, getLsbD_and_mask k v hn (by omega), decide_eq_false (by omega), Bool.false_and]
    rw [htop]
    exact two_mul_mod_lt_of_testBit hbit

/-- Where nothing is carried into a field, out of it, or out of the word, the addition of two words adds the field. -/
theorem toNat_field_add {x y : Word} {k g : Nat} (hword : x.toNat + y.toNat < 2 ^ 32)
    (hin : x.toNat % 2 ^ (g * 2 ^ k) + y.toNat % 2 ^ (g * 2 ^ k) < 2 ^ (g * 2 ^ k))
    (hout : (field x k g).toNat + (field y k g).toNat < 2 ^ 2 ^ k) :
    (field (x + y) k g).toNat = (field x k g).toNat + (field y k g).toNat := by
  simp only [toNat_field] at hout ⊢
  rw [BitVec.toNat_add, Nat.mod_eq_of_lt hword, Nat.add_div_eq_of_add_mod_lt hin, Nat.add_mod, Nat.mod_eq_of_lt hout]

/-- The sum of two fields fits in the field of twice the width (R70). -/
theorem field_add_field_lt (v : Word) (k g g' : Nat) :
    (field v k g).toNat + (field v k g').toNat < 2 ^ 2 ^ (k + 1) := by
  have hpos : 0 < 2 ^ k := Nat.two_pow_pos k
  have hwidth : 2 ^ k + 1 ≤ 2 ^ (k + 1) := by
    rw [pow_succ]
    omega
  calc (field v k g).toNat + (field v k g').toNat
      < 2 ^ 2 ^ k + 2 ^ 2 ^ k := Nat.add_lt_add (field v k g).isLt (field v k g').isLt
    _ = 2 ^ (2 ^ k + 1) := by ring
    _ ≤ 2 ^ 2 ^ (k + 1) := Nat.pow_le_pow_right (by decide) hwidth

/-- The addition of a round does not wrap, whatever the two masked words are. -/
theorem and_mask_add_lt (k : Fin 5) (u v : Word) : (u &&& mask k).toNat + (v &&& mask k).toNat < 2 ^ 32 := by
  have hword : 32 / 2 ^ (k.val + 1) * 2 ^ (k.val + 1) = 32 := by
    revert k
    decide
  have hu := two_mul_and_mask_mod_lt k u le_rfl
  have hv := two_mul_and_mask_mod_lt k v le_rfl
  rw [hword, Nat.mod_eq_of_lt (BitVec.isLt _)] at hu hv
  omega

/-- One round puts the sum of each pair of fields into the field of twice the width (R70), whatever the word is. -/
theorem field_parallelRound (k : Fin 5) (v : Word) {g : Nat} (hg : g < 32 / 2 ^ (k.val + 1)) :
    (field (parallelRound k v) (k.val + 1) g).toNat =
      (field v k.val (2 * g)).toNat + (field v k.val (2 * g + 1)).toNat := by
  have hlow : (field (v &&& mask k) (k.val + 1) g).toNat = (field v k.val (2 * g)).toNat :=
    toNat_field_and_mask k v hg
  have hhigh : (field (v >>> 2 ^ k.val &&& mask k) (k.val + 1) g).toNat = (field v k.val (2 * g + 1)).toNat := by
    rw [toNat_field_and_mask k _ hg, field_ushiftRight]
  have hlowMod := two_mul_and_mask_mod_lt k v hg.le
  have hhighMod := two_mul_and_mask_mod_lt k (v >>> 2 ^ k.val) hg.le
  rw [parallelRound, toNat_field_add (and_mask_add_lt k _ _) (by omega), hlow, hhigh]
  rw [hlow, hhigh]
  exact field_add_field_lt v k.val _ _

/-! ### The fields hold counts -/

/-- Every field of `2^k` bits of `v` holds the number of 1 bits of the operand at its positions (R70). -/
def FieldsCount (k : Nat) (operand v : Word) : Prop :=
  ∀ g < 32 / 2 ^ k, (field v k g).toNat = popcount (field operand k g)

/-- Before round 0 each field of one bit is the operand's bit (R70). -/
theorem fieldsCount_zero (v : Word) : FieldsCount 0 v v := fun g _ => (popcount_field_zero v g).symm

/-- A round turns counts of fields into counts of fields of twice the width (R70). -/
theorem FieldsCount.parallelRound {k : Fin 5} {operand v : Word} (h : FieldsCount k.val operand v) :
    FieldsCount (k.val + 1) operand (parallelRound k v) := by
  intro g hg
  have hend : (g + 1) * 2 ^ (k.val + 1) ≤ 32 := succ_mul_le_of_field hg
  have hpair : 2 * g + 2 ≤ 32 / 2 ^ k.val := by
    rw [Nat.le_div_iff_mul_le (Nat.two_pow_pos _)]
    calc (2 * g + 2) * 2 ^ k.val = (g + 1) * 2 ^ (k.val + 1) := by ring
      _ ≤ 32 := hend
  rw [field_parallelRound k v hg, h (2 * g) (by omega), h (2 * g + 1) (by omega), popcount_field_succ]

/-- With one field of 32 bits left, the working value is the operand's count (R71). -/
theorem FieldsCount.eq_popcount {operand v : Word} (h : FieldsCount 5 operand v) :
    v = BitVec.ofNat 32 (popcount operand) := by
  have hcount : v.toNat = popcount operand := by simpa only [field_five_zero] using h 0 (by decide)
  rw [← hcount, BitVec.ofNat_toNat, BitVec.setWidth_eq]

end Sys2Proof.Machine
end

section
/-! SUPPORT. PARALLEL as a whole (43_parallel.md R68 to R72): the iterate steps are the rounds of the pseudocode, and
after five of them the working value is the operand's count. -/

namespace Sys2Proof.Machine

/-- The working value after the first `n` rounds of R68, in ascending order. -/
def parallelRounds (v : Word) : Nat → Word
  | 0 => v
  | n + 1 => if h : n < 5 then parallelRound ⟨n, h⟩ (parallelRounds v n) else parallelRounds v n

theorem parallelRounds_succ (v : Word) {n : Nat} (h : n < 5) :
    parallelRounds v (n + 1) = parallelRound ⟨n, h⟩ (parallelRounds v n) := dif_pos h

/-- PARALLEL as a function is its five rounds (R68). -/
theorem parallelCount_eq_rounds (v : Word) : parallelCount v = parallelRounds v 5 := rfl

/-- After `n` rounds the fields of `2^n` bits hold their counts (R32 e, R70). -/
theorem fieldsCount_parallelRounds (v : Word) {n : Nat} (hn : n ≤ 5) : FieldsCount n v (parallelRounds v n) := by
  induction n with
  | zero => exact fieldsCount_zero v
  | succ n ih =>
    rw [parallelRounds_succ v hn]
    exact FieldsCount.parallelRound (k := ⟨n, hn⟩) (ih (Nat.le_of_succ_le hn))

/-- The five rounds count the 1 bits (R71). -/
theorem parallelRounds_five (v : Word) : parallelRounds v 5 = BitVec.ofNat 32 (popcount v) :=
  (fieldsCount_parallelRounds v le_rfl).eq_popcount

/-- PARALLEL as a function is the popcount (R68). -/
theorem parallelCount_eq (v : Word) : parallelCount v = BitVec.ofNat 32 (popcount v) :=
  (parallelCount_eq_rounds v).trans (parallelRounds_five v)

theorem iterateCondition_parallel {s : State} (h : s.sel = 3#2) : s.iterateCondition = decide (s.idx < 5#6) := by
  simp only [State.iterateCondition, h]

/-- Below 5 an EXEC step on the PARALLEL command in flight is its iterate step (R69, R75). -/
theorem exec_parallel_of_lt {s : State} (v : Word) (hp : s.phase = .busy) (hs : s.sel = 3#2) (hlt : s.idx < 5#6) :
    exec (.parallel v) s = .next (parallelIterate s) := by
  simp only [exec, execParallel, hlt, decide_true]
  exact strategyStep_of_more hp hs

/-- At 5 an EXEC step on the PARALLEL command in flight is the complete step (R72, R75). -/
theorem exec_parallel_of_eq {s : State} (v : Word) (hp : s.phase = .busy) (hs : s.sel = 3#2) (h5 : s.idx = 5#6) :
    exec (.parallel v) s = .next (complete s) := by
  simp only [exec, execParallel, h5, decide_true]
  exact strategyStep_of_finished hp hs

/-- `s` with PARALLEL on `v` in flight after `n` rounds (R32 e). -/
def State.parallelAfter (s : State) (v : Word) (n : Nat) : State :=
  { s with
    phase := .busy, sel := 3#2, w := parallelRounds v n, acc := 0#32, idx := BitVec.ofNat 6 n, resValid := false }

theorem accept_parallel (v : Word) (s : State) : accept (.parallel v) s = s.parallelAfter v 0 := rfl

/-- The complete step after the five rounds delivers the popcount, from `W` (R72). -/
theorem complete_parallelAfter_five (v : Word) (s : State) :
    complete (s.parallelAfter v 5) = { s with
      phase := .idle, sel := 3#2, w := BitVec.ofNat 32 (popcount v), acc := 0#32, idx := 5#6
      res := BitVec.ofNat 32 (popcount v), resValid := true } := by
  rw [State.parallelAfter, parallelRounds_five]
  rfl

/-- An iterate step is the next round (R69). -/
theorem exec_parallelAfter (u v : Word) (s : State) {n : Nat} (hn : n < 5) :
    exec (.parallel u) (s.parallelAfter v n) = .next (s.parallelAfter v (n + 1)) := by
  have hidx : (BitVec.ofNat 6 n).toNat = n := by
    rw [BitVec.toNat_ofNat, Nat.mod_eq_of_lt (by omega)]
  have hlt : (s.parallelAfter v n).idx.toNat < 5 := hidx.trans_lt hn
  rw [exec_parallel_of_lt u rfl rfl hlt, parallelIterate_of_lt _ hlt]
  simp only [State.parallelAfter, hidx, parallelRounds_succ v hn, BitVec.ofNat_add]

/-- From any round on, the rounds that are left and the complete step end the command (R68, R72). -/
theorem execTimes_parallelAfter (u v : Word) (s : State) {k n : Nat} (h : k + n = 5) :
    execTimes (.parallel u) (n + 1) (s.parallelAfter v k) = .next (complete (s.parallelAfter v 5)) := by
  induction n generalizing k with
  | zero =>
    obtain rfl : k = 5 := h
    rw [execTimes_succ, exec_parallel_of_eq u rfl rfl rfl, andThen_next]
    rfl
  | succ n ih =>
    rw [execTimes_succ, exec_parallelAfter u v s (by omega), andThen_next]
    exact ih (by omega)

end Sys2Proof.Machine
end

section
/-! CERTIFICATE. PARALLEL (43_parallel.md R68, R69). -/

namespace Sys2Proof.Machine

/-- Settles O19: the accept step starts with each bit its own count, each iteration is one round and doubles the width
of the counted fields, and five rounds leave the count of the whole word in `W`. -/
theorem parallelReducesInFiveRounds : Obligations.ParallelReducesInFiveRounds := by
  unfold Obligations.ParallelReducesInFiveRounds
  refine fun v s hp => ⟨decode_append 3#2 v, parallelCount_eq v, ?_⟩
  rw [execTimes_succ, exec_idle _ s hp, accept_parallel, andThen_next, execTimes_parallelAfter v v s (Nat.zero_add 5),
    complete_parallelAfter_five]

/-- Settles O13: below 5 the step is the iterate step; from 5 on there is no round, and nothing else writes `W` or `IDX`
of a command in flight. -/
theorem parallelIterateIsOneRound : Obligations.ParallelIterateIsOneRound := by
  unfold Obligations.ParallelIterateIsOneRound
  refine fun v s hp hs => ⟨fun hlt => ?_, fun hge t ht => ?_⟩
  · rw [exec_parallel_of_lt v hp hs hlt, parallelIterate_of_lt s hlt, parallelRound]
  · have hm : s.iterateCondition = false := (iterateCondition_parallel hs).trans (decide_eq_false hge)
    obtain ⟨hw, -, hidx⟩ := exec_keeps_registers_of_no_iteration hp hm ht
    exact ⟨hw, hidx⟩

end Sys2Proof.Machine
end

section
/-! SUPPORT. What the accept step, the complete step and the turns around them do as steps of the machine
(44_controller.md R73 to R76): the accept of the presented command, the dispatch of the command in flight, the command
wires unseen while busy, and the steps that hold a result. -/

namespace Sys2Proof.Machine

/-! ### The accept of the presented command -/

theorem accepts_iff (s : State) : s.accepts = true ↔
    s.nextTurn = .exec ∧ s.initialised = true ∧ s.pins.rst = false ∧ s.phase = .idle ∧ s.pins.cmdValid = true := by
  simp only [State.accepts, State.execMoves, Bool.and_eq_true, decide_eq_true_eq, Bool.not_eq_true', and_assoc]

/-- A turn of the block is the agent's turn once a reset has happened and `rst` is released (R93, R101). -/
theorem blockTurn_of_running (turn : State → StepResult) {s : State} (hi : s.initialised = true)
    (hr : s.pins.rst = false) : blockTurn turn s = turn s := by
  simp [blockTurn, hi, hr]

theorem execTurn_of_busy {s : State} (hp : s.phase = .busy) : execTurn s = exec s.inFlight s := by
  simp only [execTurn, hp]

/-- EXEC's turn accepts a command presented on an idle block (R73, R74). -/
theorem execTurn_of_presented {s : State} (hp : s.phase = .idle) (hv : s.pins.cmdValid = true) :
    execTurn s = .next (accept s.presented s.takeCommand) := by
  simp only [execTurn, hp, hv, if_true]
  exact exec_idle _ s.takeCommand hp

/-- A step that accepts is the accept step on the command presented, the turn and the presentation taken (R74). -/
theorem step_of_accepts {s : State} (h : s.accepts = true) :
    step s = .next (accept s.presented s.dropTurn.takeCommand) := by
  obtain ⟨hturn, hi, hr, hp, hv⟩ := (accepts_iff s).mp h
  simp only [step, takeTurn, hturn]
  rw [blockTurn_of_running execTurn (s := s.dropTurn) hi hr]
  exact execTurn_of_presented (s := s.dropTurn) hp hv

/-- The command presented is that of the two fields on the wires (R27, R49). -/
theorem presented_eq (s : State) : s.presented = Instr.ofSel s.pins.cmdSel s.pins.cmdValue := decode_append _ _

@[simp] theorem presented_sel (s : State) : s.presented.sel = s.pins.cmdSel := by rw [presented_eq, Instr.sel_ofSel]

@[simp] theorem presented_value (s : State) : s.presented.value = s.pins.cmdValue := by
  rw [presented_eq, Instr.value_ofSel]

/-! ### The dispatch of the command in flight -/

/-- An EXEC step on the command in flight, by the strategy multiplexer: the iterate step under the iterate condition,
else the complete step under the end condition (R75). -/
theorem exec_of_inFlight {i : Instr} {s : State} (hp : s.phase = .busy) (hi : s.sel = i.sel) :
    exec i s = if s.iterateCondition then s.iterateStep else if s.endCondition then .next (complete s) else .next s := by
  cases i with
  | naive1 v =>
    have hs : s.sel = 0#2 := hi
    simp only [State.iterateCondition, State.iterateStep, State.endCondition, hs]
    simp only [exec, execNaive1, strategyStep, hp, hi, if_true]
  | naive2 v =>
    have hs : s.sel = 1#2 := hi
    simp only [State.iterateCondition, State.iterateStep, State.endCondition, hs]
    simp only [exec, execNaive2, strategyStep, hp, hi, if_true]
  | table v =>
    have hs : s.sel = 2#2 := hi
    simp only [State.iterateCondition, State.iterateStep, State.endCondition, hs]
    simp only [exec, execTable, strategyStep, hp, hi, if_true]
  | parallel v =>
    have hs : s.sel = 3#2 := hi
    simp only [State.iterateCondition, State.iterateStep, State.endCondition, hs]
    simp only [exec, execParallel, strategyStep, hp, hi, if_true]

/-- The end conditions of the four strategies (R75, last column). -/
theorem endCondition_iff (s : State) : s.endCondition = true ↔
    s.sel = 0#2 ∧ s.idx = 32#6 ∨ s.sel = 1#2 ∧ s.w = 0#32 ∨ s.sel = 2#2 ∧ s.idx = 4#6 ∨ s.sel = 3#2 ∧ s.idx = 5#6 := by
  unfold State.endCondition
  split <;> simp [*]

/-- At its end condition no strategy iterates (R75). -/
theorem iterateCondition_of_endCondition {s : State} (h : s.endCondition = true) : s.iterateCondition = false := by
  rcases (endCondition_iff s).mp h with ⟨hs, hx⟩ | ⟨hs, hw⟩ | ⟨hs, hx⟩ | ⟨hs, hx⟩
  · simp [State.iterateCondition, hs, hx]
  · simp [State.iterateCondition, hs, hw]
  · simp [State.iterateCondition, hs, hx]
  · simp [State.iterateCondition, hs, hx]

/-- At its end condition the command in flight completes (R75, R76). -/
theorem exec_of_endCondition {i : Instr} {s : State} (hp : s.phase = .busy) (hi : s.sel = i.sel)
    (hend : s.endCondition = true) : exec i s = .next (complete s) := by
  rw [exec_of_inFlight hp hi, iterateCondition_of_endCondition hend, hend]
  rfl

/-! ### The command wires while a command is in flight -/

section
variable (valid : Bool) (c : Select) (v : Word)

theorem lutLoad_drive (s : State) (a : Byte) :
    lutLoad (s.drive valid c v) a = (lutLoad s a).map (Prod.map id fun u => u.drive valid c v) :=
  lutLoad_of_unseen (f := fun u => u.drive valid c v) rfl rfl rfl rfl

theorem tableIterate_drive (s : State) :
    tableIterate (s.drive valid c v) = mapNext (fun u => u.drive valid c v) (tableIterate s) := by
  have haddr : (s.drive valid c v).laneAddr = s.laneAddr := rfl
  simp only [tableIterate, haddr, lutLoad_drive]
  cases lutLoad s s.laneAddr <;> rfl

theorem parallelIterate_drive (s : State) :
    parallelIterate (s.drive valid c v) = (parallelIterate s).drive valid c v := by
  by_cases h : s.idx.toNat < 5
  · rw [parallelIterate_of_lt s h, parallelIterate_of_lt (s.drive valid c v) h]
    rfl
  · rw [parallelIterate_of_not_lt h, parallelIterate_of_not_lt (s := s.drive valid c v) h]

theorem iterateStep_drive (s : State) :
    (s.drive valid c v).iterateStep = mapNext (fun u => u.drive valid c v) s.iterateStep := by
  simp only [State.iterateStep, drive_sel]
  split
  · rfl
  · rfl
  · exact tableIterate_drive valid c v s
  · exact congrArg Host.Outcome.next (parallelIterate_drive valid c v s)

/-- No step on a command in flight reads the command wires: the operand is in `W` (R74, R75). -/
theorem execTurn_drive_of_busy {s : State} (hp : s.phase = .busy) :
    execTurn (s.drive valid c v) = mapNext (fun u => u.drive valid c v) (execTurn s) := by
  have hsel : s.sel = s.inFlight.sel := (Instr.sel_ofSel s.sel s.w).symm
  have hflight : (s.drive valid c v).inFlight = s.inFlight := rfl
  have hiterate : (s.drive valid c v).iterateCondition = s.iterateCondition := rfl
  have hend : (s.drive valid c v).endCondition = s.endCondition := rfl
  rw [execTurn_of_busy hp, execTurn_of_busy (s := s.drive valid c v) hp, hflight, exec_of_inFlight hp hsel,
    exec_of_inFlight (s := s.drive valid c v) hp hsel, hiterate, hend, iterateStep_drive]
  split
  · rfl
  · split <;> rfl

/-- The LUTINIT step does not read the command wires (R80). -/
theorem lutinitStep_drive (s : State) :
    lutinitStep (s.drive valid c v) = mapNext (fun u => u.drive valid c v) (lutinitStep s) := by
  have henabled : (s.drive valid c v).lutinitEnabled = s.lutinitEnabled := rfl
  simp only [lutinitStep, henabled, drive_initIdx, lutLoad_drive]
  split
  · split
    · rfl
    · cases lutLoad s ((s.initIdx >>> 1).setWidth 8) <;> rfl
  · rfl

/-- Whether the block runs does not depend on the command wires (R93, R101). -/
theorem blockTurn_drive {turn : State → StepResult} {s : State}
    (h : turn (s.drive valid c v) = mapNext (fun u => u.drive valid c v) (turn s)) :
    blockTurn turn (s.drive valid c v) = mapNext (fun u => u.drive valid c v) (blockTurn turn s) := by
  simp only [blockTurn, drive_initialised, drive_pins, h]
  split
  · split <;> rfl
  · rfl

/-- While busy, a step of the block with the command wires driven to anything is the same step with those wires: the
command presented is not accepted and stays pending (R74). -/
theorem step_drive_of_busy {s : State} (hp : s.phase = .busy) (hturn : ∀ m, s.nextTurn ≠ .host m) :
    step (s.drive valid c v) = mapNext (fun u => u.drive valid c v) (step s) := by
  have hnext : (s.drive valid c v).nextTurn = s.nextTurn := rfl
  have hdrop : (s.drive valid c v).dropTurn = s.dropTurn.drive valid c v := rfl
  simp only [step, takeTurn, hnext, hdrop]
  cases hn : s.nextTurn with
  | host m => exact absurd hn (hturn m)
  | exec => exact blockTurn_drive valid c v (execTurn_drive_of_busy valid c v (s := s.dropTurn) hp)
  | lutinit => exact blockTurn_drive valid c v (lutinitStep_drive valid c v s.dropTurn)

end

/-! ### The result held -/

/-- `t` is as idle or busy as `s` and holds the same result. -/
structure SameResult (s t : State) : Prop where
  phase : t.phase = s.phase
  res : t.res = s.res
  resValid : t.resValid = s.resValid

/-- No move of the host but the reset event touches the phase or the result (R98). -/
theorem hostMove_sameResult {m : HostMove} (hm : m ≠ .assertReset) (s : State) : SameResult s (hostMove m s) := by
  cases m with
  | assertReset => exact absurd rfl hm
  | releaseReset => exact ⟨rfl, rfl, rfl⟩
  | drive valid sel value => exact ⟨rfl, rfl, rfl⟩
  | read => exact ⟨rfl, rfl, rfl⟩

/-- A LUTINIT step touches neither the phase nor the result (R80). -/
theorem lutinitStep_sameResult {s t : State} (h : lutinitStep s = .next t) : SameResult s t := by
  rcases lutinitStep_cases h with ⟨-, rfl⟩ | ⟨-, -, rfl⟩ | ⟨-, -, b, -, rfl⟩ | ⟨-, -, -, -, rfl⟩
  · exact ⟨rfl, rfl, rfl⟩
  · exact ⟨rfl, rfl, rfl⟩
  · exact ⟨rfl, rfl, rfl⟩
  · exact ⟨rfl, rfl, rfl⟩

/-- While idle, only an accept and a reset touch the phase or the result (R76). -/
theorem step_sameResult_of_idle {s t : State} (hp : s.phase = .idle) (ha : s.accepts = false) (hr : s.resets = false)
    (h : step s = .next t) : SameResult s t := by
  rcases step_cases h with ⟨m, hm, rfl⟩ | ⟨-, -, -, rfl⟩ | ⟨hturn, hi, hrst, he⟩ | ⟨-, -, -, hl⟩
  · have hne : m ≠ .assertReset := by
      rintro rfl
      simp [State.resets, hm] at hr
    obtain ⟨hphase, hres, hvalid⟩ := hostMove_sameResult hne s.dropTurn
    exact ⟨hphase, hres, hvalid⟩
  · exact ⟨rfl, rfl, rfl⟩
  · rcases execTurn_cases he with ⟨hbusy, -⟩ | ⟨-, hv, -⟩ | ⟨-, -, rfl⟩
    · simp [hp] at hbusy
    · have haccepts : s.accepts = true := (accepts_iff s).mpr ⟨hturn, hi, hrst, hp, hv⟩
      simp [haccepts] at ha
    · exact ⟨rfl, rfl, rfl⟩
  · obtain ⟨hphase, hres, hvalid⟩ := lutinitStep_sameResult hl
    exact ⟨hphase, hres, hvalid⟩

/-- A valid result is what `rsp_count` shows (R28). -/
theorem rspCount_of_valid {s : State} (h : s.resValid = true) : s.rspCount = s.res := if_pos h

end Sys2Proof.Machine
end

section
/-! CERTIFICATE. The accept step and the complete step (44_controller.md R74, R76). -/

namespace Sys2Proof.Machine

/-- Settles O8: the step is `accept` on the decoded wires; with a command in flight every agent's step commutes with a
change of the command wires; an idle EXEC step overwrites the working registers unread. -/
theorem acceptTakesThePresentedCommand : Obligations.AcceptTakesThePresentedCommand := by
  unfold Obligations.AcceptTakesThePresentedCommand
  exact ⟨fun s ha => ⟨_, step_of_accepts ha, presented_sel s, presented_value s, rfl, rfl, rfl, rfl, rfl, rfl, rfl⟩,
    fun s valid c v hp hturn => step_drive_of_busy valid c v hp hturn,
    fun i s c v a x hp => exec_idle_ignores_registers i hp c v a x⟩

/-- Settles O14: at the end condition the step is `complete`; afterwards, while idle, only an accept and a reset touch
what `rsp_valid` and `rsp_count` show. -/
theorem completeDeliversTheResult : Obligations.CompleteDeliversTheResult := by
  unfold Obligations.CompleteDeliversTheResult
  refine ⟨fun i s hp hi hend => ⟨complete s, ?_, rfl, rfl, rfl, rfl⟩, fun s t hp hv ha hr h => ?_⟩
  · exact exec_of_endCondition hp hi ((endCondition_iff s).mpr hend)
  · obtain ⟨hphase, hres, hvalid⟩ := step_sameResult_of_idle hp ha hr h
    have hvalidt : t.resValid = true := hvalid.trans hv
    exact ⟨hvalidt, by rw [rspCount_of_valid hvalidt, rspCount_of_valid hv, hres], hphase.trans hp⟩

end Sys2Proof.Machine
end

section
/-! SUPPORT. The number of 1 bits (R8): its bound, its value on a complement and on a number with one more bit set. -/

namespace Sys2Proof.Machine

theorem onesBelow_le {width : Nat} (v : BitVec width) (n : Nat) : onesBelow v n ≤ n := by
  induction n with
  | zero => exact le_rfl
  | succ n ih => exact Nat.add_le_add ih (Bool.toNat_le _)

theorem popcount_le_width {width : Nat} (v : BitVec width) : popcount v ≤ width := onesBelow_le v width

/-- A 32-bit result holds the count of an operand without loss (R57). -/
theorem toNat_ofNat_popcount (v : Word) : (BitVec.ofNat 32 (popcount v)).toNat = popcount v := by
  have hle : popcount v ≤ 32 := popcount_le_width v
  rw [BitVec.toNat_ofNat, Nat.mod_eq_of_lt (by omega)]

/-- Every position holds a 1 in the operand or in its complement, and not in both (R88). -/
theorem onesBelow_add_onesBelow_not {width : Nat} (v : BitVec width) {n : Nat} (hn : n ≤ width) :
    onesBelow v n + onesBelow (~~~v) n = n := by
  induction n with
  | zero => rfl
  | succ n ih =>
    have hbit : (v.getLsbD n).toNat + ((~~~v).getLsbD n).toNat = 1 := by
      rw [BitVec.getLsbD_not, decide_eq_true (show n < width from hn)]
      cases v.getLsbD n <;> rfl
    have hcount := ih (Nat.le_of_succ_le hn)
    simp only [onesBelow]
    omega

theorem popcount_add_popcount_not {width : Nat} (v : BitVec width) : popcount v + popcount (~~~v) = width :=
  onesBelow_add_onesBelow_not v le_rfl

/-- Below `2^k`, adding `2^k` sets bit `k` and no other (R82). -/
theorem onesBelow_two_pow_add {width k n : Nat} (hn : n < 2 ^ k) {m : Nat} (hm : m ≤ width) :
    onesBelow (BitVec.ofNat width (2 ^ k + n)) m = onesBelow (BitVec.ofNat width n) m + (decide (k < m)).toNat := by
  induction m with
  | zero => rfl
  | succ m ih =>
    have hbit : ((2 ^ k + n).testBit m).toNat + (decide (k < m)).toNat =
        (n.testBit m).toNat + (decide (k < m + 1)).toNat := by
      rcases lt_trichotomy m k with hlt | rfl | hgt
      · rw [Nat.testBit_two_pow_add_gt hlt, decide_eq_false (by omega), decide_eq_false (by omega)]
      · rw [Nat.testBit_two_pow_add_eq, Nat.testBit_lt_two_pow hn]
        simp
      · have hpow : 2 ^ (k + 1) ≤ 2 ^ m := Nat.pow_le_pow_right (by decide) hgt
        rw [Nat.testBit_lt_two_pow (by omega), Nat.testBit_lt_two_pow (by omega), decide_eq_true hgt,
          decide_eq_true (by omega)]
    have hwidth : decide (m < width) = true := decide_eq_true hm
    simp only [onesBelow, ih (Nat.le_of_succ_le hm), BitVec.getLsbD_ofNat, hwidth, Bool.true_and]
    omega

theorem popcount_two_pow_add {width k n : Nat} (hk : k < width) (hn : n < 2 ^ k) :
    popcount (BitVec.ofNat width (2 ^ k + n)) = popcount (BitVec.ofNat width n) + 1 := by
  rw [popcount, onesBelow_two_pow_add hn le_rfl, decide_eq_true hk]
  rfl

theorem popcount_zero {width : Nat} : popcount (0#width) = 0 := by
  rw [← onesBelow_of_bitlen_le (0#width) ((bitlen_eq_zero_iff (0#width)).mpr rfl).le (Nat.zero_le _)]
  rfl

/-- A single bit counts 1 (R88). -/
theorem popcount_one_shiftLeft {width k : Nat} (hk : k < width) : popcount (1#width <<< k) = 1 := by
  have hpow : 1#width <<< k = BitVec.ofNat width (2 ^ k + 0) :=
    BitVec.eq_of_toNat_eq (BitVec.toNat_twoPow width k)
  rw [hpow, popcount_two_pow_add hk (Nat.two_pow_pos k), popcount_zero]

end Sys2Proof.Machine
end

section
/-! SUPPORT. The table: its entries where they are written, and what a LUTINIT step writes (R80, R82). -/

namespace Sys2Proof.Machine

/-- An entry of the complete table (R23). -/
theorem read_of_complete {s : State} (h : TableComplete s) {n : Nat} (hn : n < 256) :
    s.lut.read n = some (BitVec.ofNat 8 (popcount (BitVec.ofNat 8 n))) := by
  obtain ⟨hinv, hready⟩ := h
  have hlt : n < s.initIdx.toNat := by
    rw [(lutReady_iff s).mp hready]
    exact hn
  rw [hinv.entries, if_pos hlt]

theorem lutinitEnabled_iff (s : State) : s.lutinitEnabled = true ↔ s.initIdx.toNat < 256 := decide_eq_true_iff

/-- The LUTINIT step at 0 (R80). -/
theorem lutinitStep_of_zero {s : State} (h : s.initIdx = 0#9) : lutinitStep s = .next (s.appendEntry 0#8) := by
  have henabled : s.lutinitEnabled = true := (lutinitEnabled_iff s).mpr (by simp [h])
  simp only [lutinitStep, henabled, h, if_true]

/-- The LUTINIT step at `n` from 1 to 255, where entry `n >> 1` is written (R80). -/
theorem lutinitStep_of_written {s : State} {e : Byte} (hlt : s.initIdx.toNat < 256) (h0 : s.initIdx ≠ 0#9)
    (he : s.lutEntry ((s.initIdx >>> 1).setWidth 8) = some e) :
    lutinitStep s = .next (s.appendEntry (e + (s.initIdx &&& 1#9).setWidth 8)) := by
  have henabled : s.lutinitEnabled = true := (lutinitEnabled_iff s).mpr hlt
  simp only [lutinitStep, henabled, h0, if_true, if_false, lutLoad, he]

/-- The address the LUTINIT step reads, as a number (R80). -/
theorem toNat_halfIndex {x : BitVec 9} (h : x.toNat < 256) : ((x >>> 1).setWidth 8).toNat = x.toNat / 2 := by
  rw [BitVec.toNat_setWidth, BitVec.toNat_ushiftRight, Nat.shiftRight_eq_div_pow]
  omega

/-- The low bit the LUTINIT step adds, as a number (R80). -/
theorem lowBit_eq (x : BitVec 9) : (x &&& 1#9).setWidth 8 = BitVec.ofNat 8 (x.toNat % 2) := by
  refine BitVec.eq_of_toNat_eq ?_
  rw [BitVec.toNat_setWidth, BitVec.toNat_and, BitVec.toNat_ofNat, BitVec.toNat_ofNat]
  exact congrArg (· % 2 ^ 8) (Nat.and_one_is_mod _)

/-- Entry `n >> 1` is written where entry `n` comes next (R42, R80). -/
theorem TableInv.halfIndex_written {s : State} (h : TableInv s) (hlt : s.initIdx.toNat < 256)
    (h0 : s.initIdx.toNat ≠ 0) : ∃ e, s.lut.read (s.initIdx.toNat / 2) = some e ∧
      s.lutEntry ((s.initIdx >>> 1).setWidth 8) = some e := by
  have haddr := toNat_halfIndex hlt
  have hhalf : s.initIdx.toNat / 2 < s.initIdx.toNat := by omega
  have hread := h.entries (s.initIdx.toNat / 2)
  rw [if_pos hhalf] at hread
  exact ⟨_, hread, by rw [lutEntry_of_lt s _ (haddr ▸ hhalf), haddr, hread]⟩

/-- With the table complete no LUTINIT step is enabled (R80). -/
theorem lutinitEnabled_of_256 {s : State} (h : s.initIdx.toNat = 256) : s.lutinitEnabled = false := by
  rw [← Bool.not_eq_true, lutinitEnabled_iff]
  omega

/-- After a reset event construction starts by itself unless the table is preloaded (R80, R101). -/
theorem resetEvent_lutinitEnabled (s : State) : (resetEvent s).lutinitEnabled = !s.params.lutPreloaded := by
  rw [State.lutinitEnabled, resetEvent_initIdx]
  cases s.params.lutPreloaded <;> rfl

end Sys2Proof.Machine
end

section
/-! CERTIFICATE. The table construction step and the finished table (44_controller.md R80, R82). -/

namespace Sys2Proof.Machine

/-- Settles O32: the step at 0 and the step from 1 on, whose entry `n / 2` is written as it is below `INIT_IDX`. -/
theorem lutinitWritesTheNextEntry : Obligations.LutinitWritesTheNextEntry := by
  unfold Obligations.LutinitWritesTheNextEntry
  refine ⟨fun s hinv => ⟨fun hlt => ?_, fun h256 => ⟨lutinitEnabled_of_256 h256, ?_⟩⟩, resetEvent_lutinitEnabled⟩
  · by_cases h0 : s.initIdx.toNat = 0
    · have hzero : s.initIdx = 0#9 := BitVec.eq_of_toNat_eq h0
      exact ⟨0#8, lutinitStep_of_zero hzero, fun _ => rfl, fun hne => absurd h0 hne⟩
    · have hne : s.initIdx ≠ 0#9 := fun hzero => h0 (congrArg BitVec.toNat hzero)
      obtain ⟨e, hread, hentry⟩ := hinv.halfIndex_written hlt h0
      exact ⟨_, lutinitStep_of_written hlt hne hentry, fun hzero => absurd hzero h0,
        fun _ => ⟨e, hread, by rw [lowBit_eq]⟩⟩
  · exact lutinitStep_of_lutReady ((lutReady_iff s).mpr (BitVec.eq_of_toNat_eq h256))

/-- Settles O34: the entries are popcounts, and adding `2^k` to a number below it sets one more bit. -/
theorem finishedTableDoubles : Obligations.FinishedTableDoubles := by
  unfold Obligations.FinishedTableDoubles
  refine fun s hs => ⟨read_of_complete hs (by decide), fun k hk n hn => ?_⟩
  have hpow : 2 ^ (k + 1) ≤ 2 ^ 8 := Nat.pow_le_pow_right (by decide) hk
  refine ⟨_, read_of_complete hs (by omega), ?_⟩
  rw [read_of_complete hs (by omega), popcount_two_pow_add hk hn, BitVec.ofNat_add]

end Sys2Proof.Machine
end

section
/-! SUPPORT. TABLE with the complete table as a whole (42_table.md R64 to R66): a lane is a field of 8 bits, and adding
the entry of lane `j` to the 1 bits below the lane counts the 1 bits below the next one. -/

namespace Sys2Proof.Machine

/-- A lane is a field of 8 bits (R39). -/
theorem lane_eq_field (v : Word) (j : Nat) : lane v j = field v 3 j := by
  refine BitVec.eq_of_getLsbD_eq fun b hb => ?_
  have hlow : (0xFF#32).getLsbD b = true := (by decide : ∀ b < 8, (0xFF#32).getLsbD b = true) b hb
  rw [lane, getLsbD_field, BitVec.getLsbD_setWidth, BitVec.getLsbD_and, hlow, BitVec.getLsbD_ushiftRight,
    Bool.and_true, Nat.mul_comm 8 j]
  rfl

/-- The 1 bits below the end of lane `j` are those below the lane and those of the lane (R32 d). -/
theorem onesBelow_lane (v : Word) (j : Nat) :
    onesBelow v (8 * (j + 1)) = onesBelow v (8 * j) + popcount (lane v j) := by
  have hlane : popcount (lane v j) = onesBelow (v >>> (8 * j)) 8 := by
    rw [lane_eq_field, Nat.mul_comm 8 j]
    exact onesBelow_field v 3 j le_rfl
  rw [hlane, Nat.mul_succ, onesBelow_add]

/-- The entry of the finished table at an address: the address's count, which fits in 8 bits (R23). -/
theorem setWidth_entry (a : Byte) :
    (BitVec.ofNat 8 (popcount (BitVec.ofNat 8 a.toNat))).setWidth 32 = BitVec.ofNat 32 (popcount a) := by
  have hle : popcount a ≤ 8 := popcount_le_width a
  rw [BitVec.ofNat_toNat, BitVec.setWidth_eq, BitVec.setWidth_ofNat_of_le_of_lt (by decide) (by omega)]

/-- Adding the entry of lane `j` to the count below the lane gives the count below the next (R65). -/
theorem ofNat_onesBelow_add_entry (v : Word) (j : Nat) :
    BitVec.ofNat 32 (onesBelow v (8 * j)) +
      (BitVec.ofNat 8 (popcount (BitVec.ofNat 8 (lane v j).toNat))).setWidth 32 =
    BitVec.ofNat 32 (onesBelow v (8 * (j + 1))) := by
  rw [setWidth_entry, onesBelow_lane, BitVec.ofNat_add]

/-- TABLE as a function of the finished table is the popcount (R64). -/
theorem tableCount_fullTable (v : Word) : tableCount fullTable v = some (BitVec.ofNat 32 (popcount v)) := by
  have hentry : ∀ a : Byte,
      fullTable.read a.toNat = some (BitVec.ofNat 8 (popcount (BitVec.ofNat 8 a.toNat))) := fun a => by
    rw [fullTable_read, if_pos a.isLt]
  have hfirst := ofNat_onesBelow_add_entry v 0
  rw [show BitVec.ofNat 32 (onesBelow v (8 * 0)) = 0#32 from rfl, BitVec.zero_add] at hfirst
  simp only [tableCount, hentry, hfirst, ofNat_onesBelow_add_entry]
  rfl

/-- `s` with TABLE on `v` in flight after `n` lookups of written entries (R32 d). -/
def State.tableAfter (s : State) (v : Word) (n : Nat) : State :=
  { s with
    phase := .busy, sel := 2#2, w := v, acc := BitVec.ofNat 32 (onesBelow v (8 * n)), idx := BitVec.ofNat 6 n
    resValid := false }

theorem accept_table (v : Word) (s : State) : accept (.table v) s = s.tableAfter v 0 := rfl

/-- A lookup in the complete table adds the count of the next lane (R65). -/
theorem exec_tableAfter (u v : Word) {s : State} (hs : TableComplete s) {n : Nat} (hn : n < 4) :
    exec (.table u) (s.tableAfter v n) = .next (s.tableAfter v (n + 1)) := by
  have hidx : (BitVec.ofNat 6 n).toNat = n := by
    rw [BitVec.toNat_ofNat, Nat.mod_eq_of_lt (by omega)]
  have hlt : (s.tableAfter v n).iterateCondition = true :=
    decide_eq_true (BitVec.lt_def.mpr (hidx.trans_lt hn))
  have hcomplete : TableComplete (s.tableAfter v n) := tableComplete_congr (s := s) rfl rfl hs
  have haddr : (s.tableAfter v n).laneAddr = lane v n := congrArg (lane v) hidx
  rw [exec_of_inFlight rfl rfl, if_pos hlt]
  refine (tableIterate_of_written (lutEntry_of_complete hcomplete _)).trans ?_
  rw [haddr]
  simp only [State.tableAfter, State.addEntry, ofNat_onesBelow_add_entry, BitVec.ofNat_add]

end Sys2Proof.Machine
end

section
/-! SUPPORT. The result of a whole command, whichever it is: the states in flight of each strategy, one EXEC step apart,
lead to its completion, and the result is the popcount of the operand (R83, R84). -/

namespace Sys2Proof.Machine

/-- From `f k` on, a run that goes through the states `f k` to `f n` in flight ends with the completion of `f n`. -/
theorem execUntilIdle_of_passes {i : Instr} {f : Nat → State} {n : Nat} (hbusy : ∀ k, (f k).phase = .busy)
    (hnext : ∀ k < n, exec i (f k) = .next (f (k + 1))) (hlast : exec i (f n) = .next (complete (f n)))
    {k m : Nat} (hk : k ≤ n) (hm : n < k + m) : execUntilIdle i m (f k) = .next (complete (f n)) := by
  induction m generalizing k with
  | zero => omega
  | succ m ih =>
    rw [execUntilIdle_succ_of_busy i m (hbusy k)]
    rcases hk.eq_or_lt with rfl | hlt
    · rw [hlast, andThen_next, execUntilIdle_of_idle i m (complete_phase _)]
    · rw [hnext k hlt, andThen_next]
      exact ih hlt (by omega)

/-- The result of a command accepted into `f 0` that goes through `f 0` to `f n`, `n` at most 32, is what the complete
step delivers from `f n` (R76, R78). -/
theorem commandResult_of_passes {i : Instr} {s : State} {f : Nat → State} {n : Nat} (hp : s.phase = .idle) (hn : n ≤ 32)
    (hfirst : accept i s = f 0) (hbusy : ∀ k, (f k).phase = .busy)
    (hnext : ∀ k < n, exec i (f k) = .next (f (k + 1))) (hlast : exec i (f n) = .next (complete (f n))) :
    commandResult i s = some (f n).resultMux := by
  have hrun : runCommand i s = .next (complete (f n)) := by
    rw [runCommand_of_idle i hp, hfirst]
    exact execUntilIdle_of_passes hbusy hnext hlast (Nat.zero_le n) (by omega)
  simp only [commandResult, hrun]
  rfl

section
variable {s : State} (v : Word) (hp : s.phase = .idle)
include hp

theorem commandResult_naive1 : commandResult (.naive1 v) s = some (BitVec.ofNat 32 (popcount v)) := by
  rw [commandResult_of_passes hp le_rfl (accept_naive1 v s) (fun _ => rfl) (fun k hk => exec_naive1After v v s hk)
    (exec_naive1_of_eq v rfl rfl rfl)]
  exact congrArg some (naive1Loop_eq v 32)

theorem commandResult_naive2 : commandResult (.naive2 v) s = some (BitVec.ofNat 32 (popcount v)) := by
  have hnext : ∀ k < bitlen v, exec (.naive2 v) (s.naive2After v k) = .next (s.naive2After v (k + 1)) := fun k hk => by
    have hw : v >>> k ≠ 0#32 := fun hzero => absurd ((ushiftRight_eq_zero_iff v k).mp hzero) (not_le.mpr hk)
    rw [exec_naive2_of_ne v rfl rfl hw, naive2Iterate_naive2After]
  rw [commandResult_of_passes hp (bitlen_le_width v) (accept_naive2 v s) (fun _ => rfl) hnext
    (exec_naive2_of_eq v rfl rfl (ushiftRight_bitlen v))]
  exact congrArg (some ∘ BitVec.ofNat 32) (onesBelow_of_bitlen_le v le_rfl (bitlen_le_width v))

theorem commandResult_table (hs : TableComplete s) :
    commandResult (.table v) s = some (BitVec.ofNat 32 (popcount v)) :=
  commandResult_of_passes hp (by decide) (accept_table v s) (fun _ => rfl) (fun k hk => exec_tableAfter v v hs hk)
    (exec_of_endCondition (i := .table v) (s := s.tableAfter v 4) rfl rfl rfl)

theorem commandResult_parallel : commandResult (.parallel v) s = some (BitVec.ofNat 32 (popcount v)) := by
  rw [commandResult_of_passes hp (by decide) (accept_parallel v s) (fun _ => rfl)
    (fun k hk => exec_parallelAfter v v s hk) (exec_parallel_of_eq v rfl rfl rfl)]
  exact congrArg some (parallelRounds_five v)

end

/-- With the table complete every command delivers the popcount of its operand (R84). -/
theorem commandResult_eq_popcount (i : Instr) {s : State} (hp : s.phase = .idle) (hs : TableComplete s) :
    commandResult i s = some (BitVec.ofNat 32 (popcount i.value)) := by
  cases i with
  | naive1 v => exact commandResult_naive1 v hp
  | naive2 v => exact commandResult_naive2 v hp
  | table v => exact commandResult_table v hp hs
  | parallel v => exact commandResult_parallel v hp

/-- The same for a command given by its select and its operand. -/
theorem commandResult_ofSel (c : Select) (v : Word) {s : State} (hp : s.phase = .idle) (hs : TableComplete s) :
    commandResult (Instr.ofSel c v) s = some (BitVec.ofNat 32 (popcount v)) := by
  rw [commandResult_eq_popcount _ hp hs, Instr.value_ofSel]

end Sys2Proof.Machine
end

section
/-! CERTIFICATE. The four strategies agree, and the properties required of each (44_controller.md R84, R88). -/

namespace Sys2Proof.Machine

/-- Settles O20: the one value is the popcount of the operand, at the step layer and at the function layer. -/
theorem fourStrategiesAgree : Obligations.FourStrategiesAgree := by
  unfold Obligations.FourStrategiesAgree
  refine fun v => ⟨fun s hp hs => ⟨BitVec.ofNat 32 (popcount v), commandResult_naive1 v hp, commandResult_naive2 v hp,
    commandResult_table v hp hs, commandResult_parallel v hp⟩, ?_⟩
  rw [naive1Count_eq]
  exact ⟨naive2Count_eq v, tableCount_fullTable v, parallelCount_eq v⟩

/-- Settles O22: every result is the popcount of the operand, so each property is one of the popcount. -/
theorem requiredPropertiesOfEveryOperation : Obligations.RequiredPropertiesOfEveryOperation := by
  unfold Obligations.RequiredPropertiesOfEveryOperation
  intro c s hp hs
  have hresult : ∀ {v : Word} {n : Nat}, popcount v = n →
      commandResult (Instr.ofSel c v) s = some (BitVec.ofNat 32 n) := fun hn => hn ▸ commandResult_ofSel c _ hp hs
  refine ⟨fun x => ⟨_, _, hresult rfl, hresult rfl, ?_⟩, fun k hk => hresult (popcount_one_shiftLeft hk),
    hresult (by decide), hresult (by decide), hresult (by decide), hresult (by decide), hresult (by decide),
    hresult (by decide), hresult (by decide)⟩
  rw [toNat_ofNat_popcount, toNat_ofNat_popcount, popcount_add_popcount_not]

end Sys2Proof.Machine
end

section
/-! SUPPORT. The encoder and the decoder of numbers (30_encoding.md R48, R52 to R54). -/

namespace Sys2Proof

/-- The two numbers of a command fit their fields (R52). -/
@[simp] theorem Instr.wellFormed_eq_true (i : Instr) : i.wellFormed = true := by
  have fits (sel : Nat) (hsel : sel < 4) (v : Word) : (RawCommand.mk sel v.toNat).wellFormed = true := by
    simpa [RawCommand.wellFormed, RawCommand.selFits, RawCommand.valueFits, hsel] using v.isLt
  cases i with
  | naive1 v => exact fits 0 (by decide) v
  | naive2 v => exact fits 1 (by decide) v
  | table v => exact fits 2 (by decide) v
  | parallel v => exact fits 3 (by decide) v

/-- The numbers of a command are read back as the command (R49, R50). -/
theorem RawCommand.toInstr?_raw (i : Instr) : i.raw.toInstr? = some i := by
  have hfits : i.raw.wellFormed = true := i.wellFormed_eq_true
  rw [RawCommand.toInstr?, if_pos hfits]
  cases i <;> simp [Instr.raw]

/-- Decoding an encoded command gives the command (R53). -/
@[simp] theorem decode_encode (i : Instr) : decode (encode i) = i := by
  rw [encode, decode_append, Instr.ofSel_sel_value]

/-- Encoding a decoded word gives the word: the two fields cover it (R53). -/
@[simp] theorem encode_decode (word : CommandWord) : encode (decode word) = word := by
  rw [encode, decode, Instr.sel_ofSel, Instr.value_ofSel, selField_append_valueField]

/-- Two words with one decoding are one word (R53). -/
theorem decode_injective : Function.Injective decode :=
  Function.LeftInverse.injective encode_decode

theorem decodeNat_of_lt {n : Nat} (h : n < 2 ^ 34) : decodeNat n = .ok (decode (BitVec.ofNat 34 n)) := if_pos h

theorem decodeNat_of_le {n : Nat} (h : 2 ^ 34 ≤ n) : decodeNat n = .error .widerThanCommand := if_neg (not_lt.mpr h)

/-- A word of the opcode table is read by its low `nbits` bits, where these are a command word (R48, R54). -/
theorem decodeTableWord_of_lt {nbits n : Nat} (h : n % 2 ^ nbits < 2 ^ 34) :
    decodeTableWord nbits n = some (decode (BitVec.ofNat 34 (n % 2 ^ nbits))) := by
  rw [decodeTableWord, decodeNat_of_lt h]

/-- A word of the opcode table that is a select in front of an operand is read as their command (R49). -/
theorem decodeTableWord_of_fields {nbits n : Nat} (c : Select) (v : Word) (h : n % 2 ^ nbits < 2 ^ 34)
    (hword : BitVec.ofNat 34 (n % 2 ^ nbits) = c ++ v) : decodeTableWord nbits n = some (Instr.ofSel c v) := by
  rw [decodeTableWord_of_lt h, hword, decode_append]

/-- What the decoder reads from a word of the opcode table is the decoding of its low `nbits` bits. -/
theorem decode_of_decodeTableWord {nbits n : Nat} {i : Instr} (h : decodeTableWord nbits n = some i) :
    decode (BitVec.ofNat 34 (n % 2 ^ nbits)) = i := by
  rcases lt_or_ge (n % 2 ^ nbits) (2 ^ 34) with hlt | hge
  · simpa [decodeTableWord_of_lt hlt] using h
  · simp [decodeTableWord, decodeNat_of_le hge] at h

end Sys2Proof
end

section
/-! CERTIFICATE. Decoding and encoding (30_encoding.md R48, R52 to R55). -/

namespace Sys2Proof

/-- Settles O2: the fields of a decoding are the fields of the word, and they cover it. -/
theorem decodeAndEncodeAgree : Obligations.DecodeAndEncodeAgree := by
  unfold Obligations.DecodeAndEncodeAgree
  exact ⟨fun i => ⟨i.wellFormed_eq_true, decode_encode i⟩, encode_decode,
    fun word => ⟨Instr.sel_ofSel _ _, Instr.value_ofSel _ _⟩, fun a b h => decode_injective h⟩

/-- Settles O3: the decoder of numbers asks only whether the number is below 2^34. -/
theorem everyCommandWordDecodes : Obligations.EveryCommandWordDecodes := by
  unfold Obligations.EveryCommandWordDecodes
  refine ⟨fun n => decodeNat_of_lt, fun n => decodeNat_of_le, fun nbits n hn hbits => ?_⟩
  have hmod : n % 2 ^ nbits = n := Nat.mod_eq_of_lt hbits
  rw [decodeTableWord_of_lt (hmod.symm ▸ hn), hmod]

/-- Settles O4: the select digit of each word is written in front of its operand's eight digits. -/
theorem exampleWordsDecode : Obligations.ExampleWordsDecode := by
  unfold Obligations.ExampleWordsDecode
  exact ⟨decodeTableWord_of_fields 2#2 _ (by decide) (by decide), decodeTableWord_of_fields 0#2 _ (by decide) (by decide),
    decodeTableWord_of_fields 1#2 _ (by decide) (by decide), decodeTableWord_of_fields 3#2 _ (by decide) (by decide)⟩

end Sys2Proof
end

section
/-! SUPPORT. The reader of the text form on the lines the writer makes (30_encoding.md R55): two words with one space
between them, and the digits of a number read back as the number. -/

namespace Sys2Proof.Machine

/-! ### Lines of words -/

/-- Characters that end neither a word nor the line (R55). -/
def PlainText (cs : List Char) : Prop := ∀ c ∈ cs, c ≠ ' ' ∧ c ≠ ';'

theorem plainText_cons {c : Char} {cs : List Char} : PlainText (c :: cs) ↔ (c ≠ ' ' ∧ c ≠ ';') ∧ PlainText cs :=
  List.forall_mem_cons

theorem plainText_append {cs ds : List Char} : PlainText (cs ++ ds) ↔ PlainText cs ∧ PlainText ds :=
  List.forall_mem_append

theorem stripComment_of_no_comment {cs : List Char} (h : ∀ c ∈ cs, c ≠ ';') : stripComment cs = cs := by
  induction cs with
  | nil => rfl
  | cons c cs ih =>
    obtain ⟨hc, hcs⟩ := List.forall_mem_cons.mp h
    rw [stripComment, if_neg hc, ih hcs]

theorem dropSpaces_cons_of_ne {c : Char} (cs : List Char) (h : c ≠ ' ') : dropSpaces (c :: cs) = c :: cs := if_neg h

theorem dropSpaces_space (cs : List Char) : dropSpaces (' ' :: cs) = dropSpaces cs := if_pos rfl

/-- A word does not begin with a space. -/
theorem dropSpaces_of_plainText {cs : List Char} (h : PlainText cs) : dropSpaces cs = cs := by
  cases h' : cs with
  | nil => rfl
  | cons c ds =>
    rw [h', plainText_cons] at h
    exact dropSpaces_cons_of_ne ds h.1.1

theorem firstWord_append_space {cs : List Char} (ds : List Char) (h : PlainText cs) :
    firstWord (cs ++ ' ' :: ds) = cs := by
  induction cs with
  | nil => rfl
  | cons c cs ih =>
    obtain ⟨⟨hc, -⟩, hcs⟩ := plainText_cons.mp h
    rw [List.cons_append, firstWord, if_neg hc, ih hcs]

theorem afterWord_append_space {cs : List Char} (ds : List Char) (h : PlainText cs) :
    afterWord (cs ++ ' ' :: ds) = ' ' :: ds := by
  induction cs with
  | nil => rfl
  | cons c cs ih =>
    obtain ⟨⟨hc, -⟩, hcs⟩ := plainText_cons.mp h
    rw [List.cons_append, afterWord, if_neg hc, ih hcs]

theorem firstWord_of_plainText {cs : List Char} (h : PlainText cs) : firstWord cs = cs := by
  induction cs with
  | nil => rfl
  | cons c cs ih =>
    obtain ⟨⟨hc, -⟩, hcs⟩ := plainText_cons.mp h
    rw [firstWord, if_neg hc, ih hcs]

theorem afterWord_of_plainText {cs : List Char} (h : PlainText cs) : afterWord cs = [] := by
  induction cs with
  | nil => rfl
  | cons c cs ih =>
    obtain ⟨⟨hc, -⟩, hcs⟩ := plainText_cons.mp h
    rw [afterWord, if_neg hc, ih hcs]

/-- A line of two words is read as a command (R55). -/
theorem readLine_two_words {name literal : List Char} (hname : PlainText name) (hliteral : PlainText literal)
    (hne : name ≠ []) (hne' : literal ≠ []) : readLine (name ++ ' ' :: literal) = readCommand name literal := by
  have hline : stripComment (name ++ ' ' :: literal) = name ++ ' ' :: literal := by
    refine stripComment_of_no_comment fun c hc => ?_
    rcases List.mem_append.mp hc with hc | hc
    · exact (hname c hc).2
    · rcases List.mem_cons.mp hc with rfl | hc
      · decide
      · exact (hliteral c hc).2
  have hstart : dropSpaces (name ++ ' ' :: literal) = name ++ ' ' :: literal := by
    cases h : name with
    | nil => exact absurd h hne
    | cons c cs =>
      rw [h, plainText_cons] at hname
      exact dropSpaces_cons_of_ne _ hname.1.1
  simp only [readLine, hline, hstart, firstWord_append_space literal hname, afterWord_append_space literal hname,
    dropSpaces_space, dropSpaces_of_plainText hliteral, firstWord_of_plainText hliteral,
    afterWord_of_plainText hliteral, hne, hne', dropSpaces, ne_eq, not_true_eq_false, if_false]

/-! ### Hexadecimal digits -/

/-- The sixteen digits read back and are no separators. -/
theorem digitChar_spec : ∀ d < 16, hexDigit (digitChar d) = some d ∧ digitChar d ≠ ' ' ∧ digitChar d ≠ ';' := by
  decide

theorem length_hexText (count n : Nat) : (hexText count n).length = count := by
  induction count generalizing n with
  | zero => rfl
  | succ count ih => rw [hexText, List.length_append, ih, List.length_singleton]

theorem plainText_hexText (count n : Nat) : PlainText (hexText count n) := by
  induction count generalizing n with
  | zero => exact fun c hc => nomatch hc
  | succ count ih =>
    obtain ⟨-, hdigit⟩ := digitChar_spec (n % 16) (Nat.mod_lt n (by decide))
    exact plainText_append.mpr ⟨ih (n / 16), plainText_cons.mpr ⟨hdigit, fun c hc => nomatch hc⟩⟩

/-- One more digit at the end of a digit string is the least significant one (R7). -/
theorem readDigits_append_digit {base : Nat} {digit : Char → Option Nat} {cs : List Char} {c : Char} {acc n d : Nat}
    (hcs : readDigits base digit cs acc = some n) (hc : digit c = some d) :
    readDigits base digit (cs ++ [c]) acc = some (n * base + d) := by
  induction cs generalizing acc with
  | nil =>
    cases hcs
    simp [readDigits, hc]
  | cons e cs ih =>
    simp only [List.cons_append, readDigits] at hcs ⊢
    cases he : digit e with
    | none => simp [he] at hcs
    | some k =>
      simp only [he] at hcs
      exact ih hcs

/-- The digits written are read back as the number they are the low digits of. -/
theorem readDigits_hexText (count n : Nat) : readDigits 16 hexDigit (hexText count n) 0 = some (n % 16 ^ count) := by
  induction count generalizing n with
  | zero => simp [hexText, readDigits, Nat.mod_one]
  | succ count ih =>
    obtain ⟨hdigit, -⟩ := digitChar_spec (n % 16) (Nat.mod_lt n (by decide))
    rw [hexText, readDigits_append_digit (ih (n / 16)) hdigit, pow_succ', Nat.mod_mul]
    congr 1
    ring

/-- Eight digits after `0x` are a literal, and hold every operand (R55). -/
theorem readLiteral_hexText (v : Word) : readLiteral ('0' :: 'x' :: hexText 8 v.toNat) = some v.toNat := by
  have hlen : 1 ≤ (hexText 8 v.toNat).length ∧ (hexText 8 v.toNat).length ≤ 8 := by rw [length_hexText]; decide
  have hlt : v.toNat < 16 ^ 8 := v.isLt
  rw [readLiteral, if_pos hlen, readDigits_hexText, Nat.mod_eq_of_lt hlt]

/-! ### The mnemonics -/

theorem plainText_mnemonicText (i : Instr) : PlainText (mnemonicText i) := by
  cases i <;> simp [PlainText, mnemonicText, nameNaive1, nameNaive2, nameTable, nameParallel]

theorem mnemonicText_ne_nil (i : Instr) : mnemonicText i ≠ [] := by
  cases i <;> exact List.cons_ne_nil _ _

theorem mnemonicSel_mnemonicText (i : Instr) : mnemonicSel (mnemonicText i) = some i.raw.sel := by
  cases i <;> simp only [mnemonicText, Instr.raw] <;> decide

theorem raw_value (i : Instr) : i.raw.value = i.value.toNat := by
  cases i <;> rfl

/-- The mnemonic of a command and its operand written out are the command (R55). -/
theorem readCommand_mnemonicText (i : Instr) :
    readCommand (mnemonicText i) ('0' :: 'x' :: hexText 8 i.value.toNat) = some (.command i) := by
  simp only [readCommand, mnemonicSel_mnemonicText, readLiteral_hexText]
  rw [← raw_value]
  exact congrArg (Option.map AsmLine.command) (RawCommand.toInstr?_raw i)

end Sys2Proof.Machine
end

section
/-! CERTIFICATE. The text of a command (30_encoding.md R55). -/

namespace Sys2Proof.Machine

/-- Settles O5: the line is two words, a mnemonic and a literal, and each is read back. -/
theorem commandTextReadsBack : Obligations.CommandTextReadsBack := by
  unfold Obligations.CommandTextReadsBack
  intro i
  have hliteral : PlainText ('0' :: 'x' :: hexText 8 i.value.toNat) :=
    plainText_cons.mpr ⟨by decide, plainText_cons.mpr ⟨by decide, plainText_hexText 8 _⟩⟩
  have htext : commandText i = mnemonicText i ++ ' ' :: '0' :: 'x' :: hexText 8 i.value.toNat := by
    simp [commandText]
  rw [htext, readLine_two_words (plainText_mnemonicText i) hliteral (mnemonicText_ne_nil i) (List.cons_ne_nil _ _),
    readCommand_mnemonicText]

end Sys2Proof.Machine
end

section
/-! SUPPORT. The step by what it does to the block: whose turn it is (44_controller.md R73), and five effects of a step
that answers, of which only three change more than the table (R74 to R76, R80, R101). -/

namespace Sys2Proof.Machine

/-! ### Whose turn it is -/

section
variable {s : State}

theorem step_of_host {m : HostMove} (h : s.nextTurn = .host m) : step s = .next (hostMove m s.dropTurn) := by
  simp only [step, takeTurn, h]

theorem step_of_exec (h : s.nextTurn = .exec) : step s = blockTurn execTurn s.dropTurn := by
  simp only [step, takeTurn, h]

theorem step_of_lutinit (h : s.nextTurn = .lutinit) : step s = blockTurn lutinitStep s.dropTurn := by
  simp only [step, takeTurn, h]

/-- While `rst` is asserted a turn of the block passes (R101). -/
theorem blockTurn_of_held (turn : State → StepResult) (hi : s.initialised = true) (hr : s.pins.rst = true) :
    blockTurn turn s = .next s := by
  simp [blockTurn, hi, hr]

/-- Before the first reset a turn of the block is refused (R93). -/
theorem blockTurn_of_not_initialised (turn : State → StepResult) (hi : s.initialised = false) :
    blockTurn turn s = .refused .notReset := by
  simp [blockTurn, hi]

/-- With no command in flight and none presented EXEC's turn passes (R75). -/
theorem execTurn_of_not_presented (hp : s.phase = .idle) (hv : s.pins.cmdValid = false) : execTurn s = .next s := by
  simp [execTurn, hp, hv]

theorem execMoves_iff : s.execMoves = true ↔ s.nextTurn = .exec ∧ s.initialised = true ∧ s.pins.rst = false := by
  simp only [State.execMoves, Bool.and_eq_true, decide_eq_true_eq, Bool.not_eq_true', and_assoc]

theorem step_of_execMoves (h : s.execMoves = true) : step s = execTurn s.dropTurn := by
  obtain ⟨hturn, hi, hr⟩ := execMoves_iff.mp h
  rw [step_of_exec hturn]
  exact blockTurn_of_running execTurn (s := s.dropTurn) hi hr

theorem resets_iff : s.resets = true ↔ s.nextTurn = .host .assertReset := decide_eq_true_iff

theorem resets_eq_false_iff : s.resets = false ↔ s.nextTurn ≠ .host .assertReset := decide_eq_false_iff_not

/-- On EXEC's turn the host does not assert reset. -/
theorem resets_of_execMoves (h : s.execMoves = true) : s.resets = false := by
  obtain ⟨hturn, -, -⟩ := execMoves_iff.mp h
  simp [resets_eq_false_iff, hturn]

/-- Where EXEC does not move, nothing is accepted. -/
theorem accepts_of_not_execMoves (h : s.execMoves = false) : s.accepts = false := by simp [State.accepts, h]

/-- Where EXEC does not move, nothing completes. -/
theorem completes_of_not_execMoves (h : s.execMoves = false) : s.completes = false := by simp [State.completes, h]

theorem execMoves_of_nextTurn_ne (h : s.nextTurn ≠ .exec) : s.execMoves = false := by simp [State.execMoves, h]

/-! ### One EXEC step on a command -/

/-- Behind a command of another strategy a command waits (R74). -/
theorem exec_of_other {i : Instr} (hp : s.phase = .busy) (hne : s.sel ≠ i.sel) : exec i s = .next s := by
  have waits (more finished : Bool) (iterate : StepResult) : strategyStep i more finished iterate s = .next s := by
    simp [strategyStep, hp, hne]
  cases i with
  | naive1 v => exact waits _ _ _
  | naive2 v => exact waits _ _ _
  | table v => exact waits _ _ _
  | parallel v => exact waits _ _ _

/-- The operand a command in flight is named with is not read again (R74, log 1). -/
theorem exec_ofSel_of_busy (v : Word) (hp : s.phase = .busy) : exec (Instr.ofSel s.sel v) s = exec s.inFlight s := by
  rw [exec_of_inFlight hp (Instr.sel_ofSel s.sel v).symm,
    exec_of_inFlight (i := s.inFlight) hp (Instr.sel_ofSel s.sel s.w).symm]

@[simp] theorem inFlight_sel (s : State) : s.inFlight.sel = s.sel := Instr.sel_ofSel s.sel s.w

@[simp] theorem inFlight_dropTurn (s : State) : s.dropTurn.inFlight = s.inFlight := rfl

end

/-! ### Steps that leave the block or its registers as they are -/

/-- The registers of the command sequencer in `t` are those in `s`. -/
structure SameRegisters (s t : State) : Prop where
  phase : t.phase = s.phase
  sel : t.sel = s.sel
  w : t.w = s.w
  acc : t.acc = s.acc
  idx : t.idx = s.idx
  res : t.res = s.res
  resValid : t.resValid = s.resValid

/-- The nine elements of the block in `t` are those in `s`, and so are the configuration, the reset mark and the record
of unwritten reads. -/
structure SameBlock (s t : State) : Prop extends SameRegisters s t where
  lut : t.lut = s.lut
  initIdx : t.initIdx = s.initIdx
  params : t.params = s.params
  initialised : t.initialised = s.initialised
  unwrittenReads : t.unwrittenReads = s.unwrittenReads

theorem sameBlock_refl (s : State) : SameBlock s s := ⟨⟨rfl, rfl, rfl, rfl, rfl, rfl, rfl⟩, rfl, rfl, rfl, rfl, rfl⟩

/-- The agenda is no part of the block (R10). -/
theorem SameBlock.of_dropTurn {s t : State} (h : SameBlock s.dropTurn t) : SameBlock s t := by
  obtain ⟨⟨hphase, hsel, hw, hacc, hidx, hres, hvalid⟩, hlut, hinit, hparams, hinitialised, hmark⟩ := h
  exact ⟨⟨hphase, hsel, hw, hacc, hidx, hres, hvalid⟩, hlut, hinit, hparams, hinitialised, hmark⟩

theorem sameBlock_dropTurn (s : State) : SameBlock s s.dropTurn := (sameBlock_refl s.dropTurn).of_dropTurn

/-- No move of the host but the reset event changes the block (R98). -/
theorem hostMove_sameBlock {m : HostMove} (hm : m ≠ .assertReset) (s : State) : SameBlock s (hostMove m s) := by
  cases m with
  | assertReset => exact absurd rfl hm
  | releaseReset => exact ⟨⟨rfl, rfl, rfl, rfl, rfl, rfl, rfl⟩, rfl, rfl, rfl, rfl, rfl⟩
  | drive valid sel value => exact ⟨⟨rfl, rfl, rfl, rfl, rfl, rfl, rfl⟩, rfl, rfl, rfl, rfl, rfl⟩
  | read => exact ⟨⟨rfl, rfl, rfl, rfl, rfl, rfl, rfl⟩, rfl, rfl, rfl, rfl, rfl⟩

/-- A LUTINIT step changes no register of the command sequencer (R80). -/
theorem lutinitStep_sameRegisters {s t : State} (h : lutinitStep s = .next t) : SameRegisters s t := by
  rcases lutinitStep_cases h with ⟨-, rfl⟩ | ⟨-, -, rfl⟩ | ⟨-, -, b, -, rfl⟩ | ⟨-, -, -, -, rfl⟩
  all_goals exact ⟨rfl, rfl, rfl, rfl, rfl, rfl, rfl⟩

/-- A LUTINIT step changes no wire, no turn and not the configuration (R80). -/
theorem lutinitStep_environment {s t : State} (h : lutinitStep s = .next t) :
    t.params = s.params ∧ t.pins = s.pins ∧ t.agenda = s.agenda ∧ t.initialised = s.initialised := by
  rcases lutinitStep_cases h with ⟨-, rfl⟩ | ⟨-, -, rfl⟩ | ⟨-, -, b, -, rfl⟩ | ⟨-, -, -, -, rfl⟩
  all_goals exact ⟨rfl, rfl, rfl, rfl⟩

/-- A LUTINIT step writes no entry but entry `INIT_IDX` (R80). -/
theorem lutinitStep_read_other {s t : State} {n : Nat} (h : lutinitStep s = .next t) (hn : n ≠ s.initIdx.toNat) :
    t.lut.read n = s.lut.read n := by
  rcases lutinitStep_cases h with ⟨-, rfl⟩ | ⟨-, -, rfl⟩ | ⟨-, -, b, -, rfl⟩ | ⟨-, -, -, -, rfl⟩
  · rfl
  all_goals exact read_write_other _ _ _ _ hn

/-- An EXEC step on a command changes no wire, no turn and not the configuration (R75, R76). -/
theorem exec_environment {i : Instr} {s t : State} (h : exec i s = .next t) :
    t.params = s.params ∧ t.pins = s.pins ∧ t.agenda = s.agenda ∧ t.initialised = s.initialised := by
  rcases exec_cases h with ⟨-, rfl⟩ | ⟨-, -, rfl⟩ | ⟨-, -, -, -, rfl⟩ | ⟨-, -, -, -, rfl⟩ | ⟨-, -, -, -, rfl⟩ |
    ⟨-, -, -, -, rfl⟩ | ⟨-, -, -, -, hlookup⟩ | ⟨-, -, -, -, rfl⟩
  on_goal 7 => rcases tableIterate_cases hlookup with ⟨b, -, rfl⟩ | ⟨-, -, rfl⟩
  all_goals simp

/-! ### The mark of an unwritten read -/

/-- An EXEC step adds at most an address at the end of the record of unwritten reads (R92). -/
theorem exec_unwrittenReads {i : Instr} {s t : State} (h : exec i s = .next t) :
    ∃ l, t.unwrittenReads = s.unwrittenReads ++ l := by
  rcases exec_cases h with ⟨-, rfl⟩ | ⟨-, -, rfl⟩ | ⟨-, -, -, -, rfl⟩ | ⟨-, -, -, -, rfl⟩ | ⟨-, -, -, -, rfl⟩ |
    ⟨-, -, -, -, rfl⟩ | ⟨-, -, -, -, hlookup⟩ | ⟨-, -, -, -, rfl⟩
  on_goal 7 =>
    rcases tableIterate_cases hlookup with ⟨b, -, rfl⟩ | ⟨-, -, rfl⟩
    · exact ⟨[], by simp⟩
    · exact ⟨[s.laneAddr], rfl⟩
  all_goals exact ⟨[], by simp⟩

/-- A LUTINIT step adds at most an address at the end of the record of unwritten reads (R92). -/
theorem lutinitStep_unwrittenReads {s t : State} (h : lutinitStep s = .next t) :
    ∃ l, t.unwrittenReads = s.unwrittenReads ++ l := by
  rcases lutinitStep_cases h with ⟨-, rfl⟩ | ⟨-, -, rfl⟩ | ⟨-, -, b, -, rfl⟩ | ⟨-, -, -, -, rfl⟩
  on_goal 4 => exact ⟨[(s.initIdx >>> 1).setWidth 8], rfl⟩
  all_goals exact ⟨[], by simp⟩

/-! ### The five effects of a step -/

/-- What a step that answers does: the reset event; the accept of the presented command; a step on the command in
flight; a LUTINIT step; or nothing to the block (another move of the host, or a turn that passes). -/
inductive StepEffect (s t : State) : Prop
  | reset (hreset : s.resets = true) (heq : t = (resetEvent s.dropTurn).setRst true)
  | accept (haccepts : s.accepts = true) (heq : t = accept s.presented s.dropTurn.takeCommand)
  | dispatch (hmoves : s.execMoves = true) (hbusy : s.phase = .busy) (hexec : exec s.inFlight s.dropTurn = .next t)
  | construct (hturn : s.nextTurn = .lutinit) (hlutinit : lutinitStep s.dropTurn = .next t)
  | pass (hreset : s.resets = false) (haccepts : s.accepts = false) (hcompletes : s.completes = false)
      (hsame : SameBlock s t)

theorem step_effect {s t : State} (h : step s = .next t) : StepEffect s t := by
  rcases step_cases h with ⟨m, hm, rfl⟩ | ⟨hturn, -, hr, rfl⟩ | ⟨hturn, hi, hr, he⟩ | ⟨hturn, -, -, hl⟩
  · by_cases hreset : m = .assertReset
    · subst hreset
      exact .reset (resets_iff.mpr hm) rfl
    · have hmoves : s.execMoves = false := execMoves_of_nextTurn_ne (by simp [hm])
      exact .pass (resets_eq_false_iff.mpr (by simpa [hm] using hreset)) (accepts_of_not_execMoves hmoves)
        (completes_of_not_execMoves hmoves) (hostMove_sameBlock hreset s.dropTurn).of_dropTurn
  · have hmoves : s.execMoves = false := by simp [State.execMoves, hr]
    have hreset : s.resets = false := by
      rcases hturn with hturn | hturn <;> simp [resets_eq_false_iff, hturn]
    exact .pass hreset (accepts_of_not_execMoves hmoves) (completes_of_not_execMoves hmoves) (sameBlock_dropTurn s)
  · have hmoves : s.execMoves = true := execMoves_iff.mpr ⟨hturn, hi, hr⟩
    rcases execTurn_cases he with ⟨hp, ht⟩ | ⟨hp, hv, ht⟩ | ⟨hp, hv, rfl⟩
    · exact .dispatch hmoves hp ht
    · rw [exec_idle _ s.dropTurn.takeCommand hp] at ht
      cases ht
      exact .accept ((accepts_iff s).mpr ⟨hturn, hi, hr, hp, hv⟩) rfl
    · have hidle : s.phase = .idle := hp
      have hnone : s.pins.cmdValid = false := hv
      exact .pass (resets_of_execMoves hmoves) (by simp [State.accepts, hnone]) (by simp [State.completes, hidle])
        (sameBlock_dropTurn s)
  · exact .construct hturn hl

end Sys2Proof.Machine
end

section
/-! CERTIFICATE. The step, the command it runs, and what each kind of step leaves unchanged (44_controller.md R73 to
R75, 60_exceptions.md R92, R93 and R98, 70_reset_and_hazards.md R101). -/

namespace Sys2Proof.Machine

/-- Settles O6: a step on EXEC's turn is `execTurn`, which runs the command presented or the one in flight. -/
theorem stepRunsTheCommand : Obligations.StepRunsTheCommand := by
  unfold Obligations.StepRunsTheCommand
  refine ⟨fun s i ha hi => ?_, fun s v hm hp => ?_, fun s hm hp hv => ?_⟩
  · obtain ⟨-, -, -, hp, -⟩ := (accepts_iff s).mp ha
    have hpresented : s.presented = i := hi
    rw [step_of_accepts ha, hpresented, exec_idle i s.dropTurn.takeCommand hp]
  · rw [step_of_execMoves hm, execTurn_of_busy (s := s.dropTurn) hp]
    exact (exec_ofSel_of_busy v (s := s.dropTurn) hp).symm
  · rw [step_of_execMoves hm, execTurn_of_not_presented (s := s.dropTurn) hp hv]

/-- Settles O7: the state with a word placed accepts, and what it presents is the decoding of that word. -/
theorem placedWordRunsNext : Obligations.PlacedWordRunsNext := by
  unfold Obligations.PlacedWordRunsNext
  intro s nbits w i hword
  have haccepts : (s.withFetchWord nbits w).accepts = true := (accepts_iff _).mpr ⟨rfl, rfl, rfl, rfl, rfl⟩
  have hpresented : (s.withFetchWord nbits w).presented = i := by
    rw [← decode_of_decodeTableWord hword]
    exact congrArg decode (selField_append_valueField _)
  rw [step_of_accepts haccepts, hpresented, exec_idle i (s.withFetchWord nbits w).dropTurn.takeCommand rfl]

/-- Settles O9: the common shape of an EXEC step asks first whether the strategy in flight is the command's. -/
theorem otherStrategyWaitsWhileBusy : Obligations.OtherStrategyWaitsWhileBusy := by
  unfold Obligations.OtherStrategyWaitsWhileBusy
  exact fun i s hp hne => exec_of_other hp hne

/-- Settles O42: every effect of a step keeps the record or adds an address to its end. -/
theorem faultMarkIsNeverCleared : Obligations.FaultMarkIsNeverCleared := by
  unfold Obligations.FaultMarkIsNeverCleared
  intro s t h
  cases step_effect h with
  | reset _ heq => exact ⟨[], by simp [heq]⟩
  | accept _ heq => exact ⟨[], by simp [heq]⟩
  | dispatch _ _ hexec => exact exec_unwrittenReads (s := s.dropTurn) hexec
  | construct _ hlutinit => exact lutinitStep_unwrittenReads (s := s.dropTurn) hlutinit
  | pass _ _ _ hsame => exact ⟨[], by simp [hsame.unwrittenReads]⟩

/-- Settles O45: while `rst` is asserted a turn of the block passes; the reset event asserts it. -/
theorem assertedResetHoldsTheBlock : Obligations.AssertedResetHoldsTheBlock := by
  unfold Obligations.AssertedResetHoldsTheBlock
  refine ⟨fun s hi hr hturn => ?_, fun s hreset => ⟨_, step_of_resets hreset, rfl⟩, fun s hturn => step_of_host hturn⟩
  rcases hturn with hturn | hturn
  · rw [step_of_exec hturn, blockTurn_of_held execTurn (s := s.dropTurn) hi hr]
  · rw [step_of_lutinit hturn, blockTurn_of_held lutinitStep (s := s.dropTurn) hi hr]

/-- Settles O46: both turns of the block ask first whether a reset has happened. -/
theorem stepsBeforeFirstResetAreRefused : Obligations.StepsBeforeFirstResetAreRefused := by
  unfold Obligations.StepsBeforeFirstResetAreRefused
  intro s hi hturn
  rcases hturn with hturn | hturn
  · rw [step_of_exec hturn, blockTurn_of_not_initialised execTurn (s := s.dropTurn) hi]
  · rw [step_of_lutinit hturn, blockTurn_of_not_initialised lutinitStep (s := s.dropTurn) hi]

/-- Settles O47: each of the things an EXEC step can do, by the fields it writes. -/
theorem execFrame : Obligations.ExecFrame := by
  unfold Obligations.ExecFrame
  intro i s t h
  rcases exec_cases h with ⟨hp, rfl⟩ | ⟨-, -, rfl⟩ | ⟨-, -, -, -, rfl⟩ | ⟨-, -, -, -, rfl⟩ | ⟨-, -, hs, -, rfl⟩ |
    ⟨-, -, hs, -, rfl⟩ | ⟨hp, -, hs, -, hlookup⟩ | ⟨-, -, hs, -, rfl⟩
  · simp [hp]
  · simp
  · simp
  · simp
  · simp [hs]
  · simp [hs]
  · rcases tableIterate_cases hlookup with ⟨b, -, rfl⟩ | ⟨-, -, rfl⟩
    · simp [hs]
    · simp [hp, hs]
  · simp [hs]

/-- Settles O48: a LUTINIT step writes entry `INIT_IDX` and steps `INIT_IDX`. -/
theorem lutinitFrame : Obligations.LutinitFrame := by
  unfold Obligations.LutinitFrame
  intro s t h
  obtain ⟨hphase, hsel, hw, hacc, hidx, hres, hvalid⟩ := lutinitStep_sameRegisters h
  exact ⟨fun n hn => lutinitStep_read_other h hn, hphase, hsel, hw, hacc, hidx, hres, hvalid,
    lutinitStep_environment h⟩

/-- Settles O49: the host's moves other than the reset event write the wires and the number of draws only. -/
theorem hostMovesFrame : Obligations.HostMovesFrame := by
  unfold Obligations.HostMovesFrame
  intro s m hturn hm
  obtain ⟨⟨hphase, hsel, hw, hacc, hidx, hres, hvalid⟩, hlut, hinit, hparams, hinitialised, hmark⟩ :=
    hostMove_sameBlock hm s.dropTurn
  refine ⟨_, step_of_host hturn, hphase, hsel, hw, hacc, hidx, hres, hvalid, hinit, hlut, hparams, hinitialised, hmark,
    ?_, ?_, ?_⟩
  · rintro rfl
    rfl
  · rintro rfl
    rfl
  · rintro valid c v rfl
    rfl

end Sys2Proof.Machine
end

section
/-! SUPPORT. The table through every step (44_controller.md R80, 10_state.md R24): under the invariant a LUTINIT step
writes the popcount of the address, which keeps the invariant, and no other step but the reset event touches it. -/

namespace Sys2Proof.Machine

/-! ### The recurrence of the entries -/

/-- The 1 bits of a word are its low bit and the 1 bits of the word shifted right by 1 (R80). -/
theorem popcount_eq_lowBit_add {width : Nat} (v : BitVec width) :
    popcount v = (v.getLsbD 0).toNat + popcount (v >>> 1) := by
  cases width with
  | zero => simp [popcount, onesBelow]
  | succ n =>
    have htop : (v >>> 1).getLsbD n = false := by
      rw [BitVec.getLsbD_ushiftRight]
      exact BitVec.getLsbD_of_ge v _ (by omega)
    have hrest : popcount (v >>> 1) = onesBelow (v >>> 1) n := by
      simp only [popcount, onesBelow, htop, Bool.toNat_false, Nat.add_zero]
    calc popcount v = onesBelow v (1 + n) := congrArg (onesBelow v) (Nat.add_comm n 1)
      _ = (v.getLsbD 0).toNat + popcount (v >>> 1) := by simp [onesBelow_add, onesBelow, hrest]

/-- Entry `n` is entry `n >> 1` plus the low bit of `n` (R80). -/
theorem entry_half_add_lowBit {n : Nat} (hn : n < 256) :
    BitVec.ofNat 8 (popcount (BitVec.ofNat 8 (n / 2))) + BitVec.ofNat 8 (n % 2) =
      BitVec.ofNat 8 (popcount (BitVec.ofNat 8 n)) := by
  have hshift : BitVec.ofNat 8 n >>> 1 = BitVec.ofNat 8 (n / 2) := by
    refine BitVec.eq_of_toNat_eq ?_
    rw [BitVec.toNat_ushiftRight, BitVec.toNat_ofNat, BitVec.toNat_ofNat, Nat.shiftRight_eq_div_pow]
    omega
  have hlow : ((BitVec.ofNat 8 n).getLsbD 0).toNat = n % 2 := by
    rw [BitVec.getLsbD_ofNat, decide_eq_true (by decide), Bool.true_and, Nat.toNat_testBit, pow_zero, Nat.div_one]
  rw [popcount_eq_lowBit_add (BitVec.ofNat 8 n), hshift, hlow, ← BitVec.ofNat_add, Nat.add_comm]

/-! ### The invariant of the table -/

/-- What TableInv says of a state it says of every state with the same table and the same `INIT_IDX`. -/
theorem tableInv_congr {s t : State} (hlut : t.lut = s.lut) (hidx : t.initIdx = s.initIdx) (h : TableInv s) :
    TableInv t := by
  obtain ⟨hwf, hbound, hentries⟩ := h
  refine ⟨hlut ▸ hwf, hidx ▸ hbound, fun n => ?_⟩
  rw [hlut, hidx]
  exact hentries n

theorem TableInv.dropTurn {s : State} (h : TableInv s) : TableInv s.dropTurn := tableInv_congr (s := s) rfl rfl h

theorem tableComplete_iff (s : State) : TableComplete s ↔ TableInv s ∧ s.initIdx = 256#9 :=
  and_congr_right fun _ => lutReady_iff s

/-- No entry is written: the table before its construction (R31). -/
theorem tableInv_of_empty {s : State} (hlut : s.lut = []) (hidx : s.initIdx = 0#9) : TableInv s where
  canonical := by simp [hlut, Memory.wf]
  bound := by simp [hidx]
  entries n := by simp [hlut, hidx, Memory.read]

/-- Every entry is written: the finished table (R23). -/
theorem tableInv_of_full {s : State} (hlut : s.lut = fullTable) (hidx : s.initIdx = 256#9) : TableInv s where
  canonical := hlut ▸ fullTable_wf
  bound := by simp [hidx]
  entries n := by simpa [hlut, hidx] using fullTable_read n

/-- The reset event leaves the empty table or the finished one (R31). -/
theorem resetEvent_tableInv (s : State) : TableInv (resetEvent s) := by
  cases hp : s.params.lutPreloaded with
  | false => exact tableInv_of_empty (by simp [hp]) (by simp [hp])
  | true => exact tableInv_of_full (by simp [hp]) (by simp [hp])

/-- The reset event of a preloaded machine leaves the finished table (R24, R31). -/
theorem resetEvent_tableComplete {s : State} (h : s.params.lutPreloaded = true) : TableComplete (resetEvent s) :=
  (tableComplete_iff _).mpr ⟨resetEvent_tableInv s, by simp [h]⟩

section
variable {s t : State}

/-- A written entry is the popcount of its address (R24). -/
theorem TableInv.lutEntry_eq (h : TableInv s) {a b : Byte} (hb : s.lutEntry a = some b) :
    b = BitVec.ofNat 8 (popcount (BitVec.ofNat 8 a.toNat)) := by
  by_cases hlt : a.toNat < s.initIdx.toNat
  · rw [lutEntry_of_lt s a hlt, h.entries, if_pos hlt] at hb
    exact (Option.some.inj hb).symm
  · rw [lutEntry_of_le s a (not_lt.mp hlt)] at hb
    cases hb

/-- Below `INIT_IDX` every entry is written (R24). -/
theorem TableInv.lutEntry_of_lt (h : TableInv s) {a : Byte} (hlt : a.toNat < s.initIdx.toNat) :
    s.lutEntry a = some (BitVec.ofNat 8 (popcount (BitVec.ofNat 8 a.toNat))) := by
  rw [Machine.lutEntry_of_lt s a hlt, h.entries, if_pos hlt]

/-- A LUTINIT step writes the popcount of the address (R80). -/
theorem TableInv.lutinitStep_of_lt (h : TableInv s) (hlt : s.initIdx.toNat < 256) : lutinitStep s =
    .next (s.appendEntry (BitVec.ofNat 8 (popcount (BitVec.ofNat 8 s.initIdx.toNat)))) := by
  by_cases h0 : s.initIdx = 0#9
  · rw [lutinitStep_of_zero h0, h0]
    rfl
  · have hne : s.initIdx.toNat ≠ 0 := fun hzero => h0 (BitVec.eq_of_toNat_eq hzero)
    obtain ⟨e, -, hentry⟩ := h.halfIndex_written hlt hne
    rw [lutinitStep_of_written hlt h0 hentry, h.lutEntry_eq hentry, toNat_halfIndex hlt, lowBit_eq,
      entry_half_add_lowBit hlt]

/-- A LUTINIT step is not enabled, or it writes the popcount of the address (R80). -/
theorem TableInv.lutinitStep_cases (h : TableInv s) :
    (s.initIdx = 256#9 ∧ lutinitStep s = .next s) ∨
    (s.initIdx.toNat < 256 ∧ lutinitStep s =
      .next (s.appendEntry (BitVec.ofNat 8 (popcount (BitVec.ofNat 8 s.initIdx.toNat))))) := by
  rcases h.bound.lt_or_eq with hlt | heq
  · exact .inr ⟨hlt, h.lutinitStep_of_lt hlt⟩
  · have h256 : s.initIdx = 256#9 := BitVec.eq_of_toNat_eq heq
    exact .inl ⟨h256, lutinitStep_of_lutReady ((lutReady_iff s).mpr h256)⟩

/-- An entry written steps `INIT_IDX` by 1, which does not wrap. -/
theorem toNat_appendEntry_initIdx (b : Byte) (hlt : s.initIdx.toNat < 256) :
    (s.appendEntry b).initIdx.toNat = s.initIdx.toNat + 1 := by
  rw [appendEntry_initIdx]
  bv_omega

/-- The popcount written at `INIT_IDX` keeps the invariant of the table (R32 a). -/
theorem TableInv.appendEntry (h : TableInv s) (hlt : s.initIdx.toNat < 256) :
    TableInv (s.appendEntry (BitVec.ofNat 8 (popcount (BitVec.ofNat 8 s.initIdx.toNat)))) where
  canonical := write_wf _ _ _ hlt h.canonical
  bound := by
    rw [toNat_appendEntry_initIdx _ hlt]
    exact hlt
  entries n := by
    rw [toNat_appendEntry_initIdx _ hlt, appendEntry_lut]
    by_cases hn : n = s.initIdx.toNat
    · rw [hn, read_write_same, if_pos (Nat.lt_succ_self _)]
    · have hiff : n < s.initIdx.toNat + 1 ↔ n < s.initIdx.toNat := by omega
      rw [read_write_other _ _ _ _ hn, h.entries, if_congr hiff rfl rfl]

/-- A LUTINIT step keeps the invariant of the table and reads no unwritten entry (R42, R80). -/
theorem TableInv.lutinitStep_keeps (h : TableInv s) (hl : lutinitStep s = .next t) :
    TableInv t ∧ t.unwrittenReads = s.unwrittenReads := by
  rcases h.lutinitStep_cases with ⟨-, heq⟩ | ⟨hlt, heq⟩
  · rw [heq] at hl
    cases hl
    exact ⟨h, rfl⟩
  · rw [heq] at hl
    cases hl
    exact ⟨h.appendEntry hlt, rfl⟩

/-- Every step keeps the invariant of the table (R32 a). -/
theorem step_keeps_tableInv (h : TableInv s) (hstep : step s = .next t) : TableInv t := by
  cases step_effect hstep with
  | reset _ heq =>
    subst heq
    exact tableInv_congr (s := resetEvent s.dropTurn) rfl rfl (resetEvent_tableInv _)
  | accept _ heq =>
    subst heq
    exact tableInv_congr (s := s) rfl rfl h
  | dispatch _ _ hexec =>
    obtain ⟨hlut, hidx⟩ := exec_keeps_table hexec
    exact tableInv_congr (s := s) hlut hidx h
  | construct _ hlutinit => exact (h.dropTurn.lutinitStep_keeps hlutinit).1
  | pass _ _ _ hsame => exact tableInv_congr hsame.lut hsame.initIdx h

/-- A complete table stays complete through every step but the reset event (R26). -/
theorem step_keeps_tableComplete (h : TableComplete s) (hr : s.resets = false) (hstep : step s = .next t) :
    TableComplete t := by
  obtain ⟨hinv, hready⟩ := h
  exact ⟨step_keeps_tableInv hinv hstep, step_keeps_lutReady hready hr hstep⟩

/-! ### The canonical form alone -/

/-- A LUTINIT step keeps the canonical form, whatever it writes (R80). -/
theorem lutinitStep_keeps_wf (h : s.lut.wf) (hl : lutinitStep s = .next t) : t.lut.wf := by
  rcases Machine.lutinitStep_cases hl with ⟨-, rfl⟩ | ⟨he, -, rfl⟩ | ⟨he, -, b, -, rfl⟩ | ⟨he, -, -, -, rfl⟩
  on_goal 1 => exact h
  all_goals exact write_wf _ _ _ ((lutinitEnabled_iff s).mp he) h

/-! ### The configuration -/

/-- No step changes the configuration (log 5, 6). -/
theorem step_keeps_params (hstep : step s = .next t) : t.params = s.params := by
  cases step_effect hstep with
  | reset _ heq => rw [heq]; rfl
  | accept _ heq => rw [heq]; rfl
  | dispatch _ _ hexec => exact (exec_environment hexec).1
  | construct _ hlutinit => exact (lutinitStep_environment hlutinit).1
  | pass _ _ _ hsame => exact hsame.params

end

/-! ### The construction as a whole -/

theorem lutinitTimes_succ (n : Nat) (s : State) :
    lutinitTimes (n + 1) s = andThen (lutinitStep s) (lutinitTimes n) := by
  cases h : lutinitStep s <;> simp only [lutinitTimes, andThen, h]

/-- The table and `INIT_IDX` replaced. -/
def State.replaceTable (m : Memory) (n : BitVec 9) (s : State) : State := { s with lut := m, initIdx := n }

/-- The LUTINIT steps that are left complete the table and change nothing else (R80). -/
theorem TableInv.lutinitTimes_completes {s : State} (h : TableInv s) {n : Nat} (hn : s.initIdx.toNat + n = 256) :
    ∃ m, lutinitTimes n s = .next (s.replaceTable m 256#9) ∧ TableComplete (s.replaceTable m 256#9) := by
  induction n generalizing s with
  | zero =>
    have h256 : s.initIdx = 256#9 := BitVec.eq_of_toNat_eq hn
    have hsame : s.replaceTable s.lut 256#9 = s := by rw [State.replaceTable, ← h256]
    exact ⟨s.lut, by rw [hsame]; rfl, hsame.symm ▸ (tableComplete_iff s).mpr ⟨h, h256⟩⟩
  | succ n ih =>
    have hlt : s.initIdx.toNat < 256 := by omega
    obtain ⟨m, htimes, hm⟩ := ih (h.appendEntry hlt) (by rw [toNat_appendEntry_initIdx _ hlt]; omega)
    refine ⟨m, ?_, hm⟩
    rw [lutinitTimes_succ, h.lutinitStep_of_lt hlt, andThen_next, htimes]
    rfl

end Sys2Proof.Machine
end

section
/-! CERTIFICATE. The table through every step (44_controller.md R80, 20_memory.md section 3, 10_state.md R24). -/

namespace Sys2Proof.Machine

/-- Settles O33: each LUTINIT step writes the next popcount, and as many are left as entries are unwritten. -/
theorem constructionCompletesTheTable : Obligations.ConstructionCompletesTheTable := by
  unfold Obligations.ConstructionCompletesTheTable
  intro s h
  obtain ⟨m, htimes, hm⟩ := h.lutinitTimes_completes (Nat.add_sub_cancel' h.bound)
  exact ⟨m, htimes, fun n hn => read_of_complete hm hn, hm.1.canonical⟩

/-- Settles O36: only LUTINIT writes, at `INIT_IDX`, and a written entry is below it. -/
theorem writtenEntriesAreImmutable : Obligations.WrittenEntriesAreImmutable := by
  unfold Obligations.WrittenEntriesAreImmutable
  intro s t n b hinv hr hstep hn
  have hne : n ≠ s.initIdx.toNat := by
    rintro rfl
    simp [hinv.entries] at hn
  cases step_effect hstep with
  | reset hreset _ => simp [hr] at hreset
  | accept _ heq => exact heq ▸ hn
  | dispatch _ _ hexec => exact (exec_keeps_table hexec).1 ▸ hn
  | construct _ hlutinit => exact (lutinitStep_read_other hlutinit hne).trans hn
  | pass _ _ _ hsame => exact hsame.lut ▸ hn

/-- Settles O37: a reset leaves one of two canonical tables, and LUTINIT writes below 256 only. -/
theorem stepKeepsMemoryForm : Obligations.StepKeepsMemoryForm := by
  unfold Obligations.StepKeepsMemoryForm
  intro s t hwf hstep
  cases step_effect hstep with
  | reset _ heq => exact heq ▸ (resetEvent_tableInv s.dropTurn).canonical
  | accept _ heq => exact heq ▸ hwf
  | dispatch _ _ hexec => exact (exec_keeps_table hexec).1 ▸ hwf
  | construct _ hlutinit => exact lutinitStep_keeps_wf (s := s.dropTurn) hwf hlutinit
  | pass _ _ _ hsame => exact hsame.lut ▸ hwf

/-- Settles O43: no step writes the configuration; the reset event completes a preloaded table, and every other step
keeps a complete one. -/
theorem preloadedTableStaysComplete : Obligations.PreloadedTableStaysComplete := by
  unfold Obligations.PreloadedTableStaysComplete
  intro s t hstep
  have hparams : t.params = s.params := step_keeps_params hstep
  have hreset (hr : s.resets = true) (hp : t.params.lutPreloaded = true) : TableComplete t := by
    rw [step_of_resets hr] at hstep
    cases hstep
    exact tableComplete_congr (s := resetEvent s.dropTurn) rfl rfl (resetEvent_tableComplete (s := s.dropTurn) hp)
  refine ⟨hparams, fun hs hp => ?_, hreset⟩
  cases hr : s.resets with
  | true => exact hreset hr hp
  | false => exact step_keeps_tableComplete (hs (hparams ▸ hp)) hr hstep

end Sys2Proof.Machine
end

section
/-! SUPPORT. Lanes and fields of a word (20_memory.md R39), and the operands of the extreme counts (R85). -/

namespace Sys2Proof.Machine

/-- Lane `j` is the byte from bit `8 j` on (R39). -/
theorem lane_eq_extractLsb' (v : Word) (j : Nat) : lane v j = v.extractLsb' (8 * j) 8 := by
  rw [lane_eq_field, field, Nat.mul_comm j]
  rfl

/-- The four lanes in concatenation are the word (R39). -/
theorem lanes_append (v : Word) : lane v 3 ++ lane v 2 ++ lane v 1 ++ lane v 0 = v := by
  simp only [lane_eq_extractLsb']
  rw [BitVec.extractLsb'_append_extractLsb'_eq_extractLsb' (by decide),
    BitVec.extractLsb'_append_extractLsb'_eq_extractLsb' (by decide),
    BitVec.extractLsb'_append_extractLsb'_eq_extractLsb' (by decide)]
  exact BitVec.extractLsb'_eq_self

theorem onesBelow_eq_zero_iff {width : Nat} (v : BitVec width) (n : Nat) :
    onesBelow v n = 0 ↔ ∀ j < n, v.getLsbD j = false := by
  induction n with
  | zero => simp [onesBelow]
  | succ n ih => rw [Nat.forall_lt_succ_right, onesBelow, Nat.add_eq_zero_iff, ih, Bool.toNat_eq_zero]

/-- Only zero counts 0 (R85). -/
theorem popcount_eq_zero_iff {width : Nat} (v : BitVec width) : popcount v = 0 ↔ v = 0#width := by
  rw [popcount, onesBelow_eq_zero_iff]
  constructor
  · intro hbits
    exact BitVec.eq_of_getLsbD_eq fun j hj => by rw [hbits j hj, BitVec.getLsbD_zero]
  · rintro rfl j -
    exact BitVec.getLsbD_zero

/-- Only the word of all ones counts its whole width (R85). -/
theorem popcount_eq_width_iff {width : Nat} (v : BitVec width) : popcount v = width ↔ v = BitVec.allOnes width := by
  have hsum := popcount_add_popcount_not v
  calc popcount v = width ↔ popcount (~~~v) = 0 := by omega
    _ ↔ ~~~v = 0#width := popcount_eq_zero_iff _
    _ ↔ v = BitVec.allOnes width := by rw [BitVec.not_eq_comm, BitVec.not_zero]

/-- A 32-bit result is a count exactly when it is the operand's. -/
theorem ofNat_popcount_eq_iff (v : Word) {n : Nat} (hn : n ≤ 32) :
    BitVec.ofNat 32 (popcount v) = BitVec.ofNat 32 n ↔ popcount v = n := by
  rw [← BitVec.toNat_inj, toNat_ofNat_popcount, BitVec.toNat_ofNat, Nat.mod_eq_of_lt (by omega)]

end Sys2Proof.Machine
end

section
/-! CERTIFICATE. The lanes (20_memory.md R39), the fields of a round (43_parallel.md R70) and the range of the results
(44_controller.md R85). -/

namespace Sys2Proof.Machine

/-- Settles O29: a lane is a field of 8 bits, and neighbouring bytes in concatenation are the bits of both. -/
theorem lanesAreTheBytes : Obligations.LanesAreTheBytes := by
  unfold Obligations.LanesAreTheBytes
  exact fun v => ⟨fun j _ => lane_eq_extractLsb' v j, lanes_append v⟩

/-- Settles O30: the round adds each pair of fields, whatever they hold, and counts of a pair add up. -/
theorem roundSumsAdjacentFields : Obligations.RoundSumsAdjacentFields := by
  unfold Obligations.RoundSumsAdjacentFields
  intro k operand v hcount g hg
  have hfields : FieldsCount k.val operand v := hcount
  exact ⟨hfields.parallelRound g hg, field_parallelRound k v hg⟩

/-- Settles O21: every result is the popcount of the operand, which is at most the width and takes its extreme values at
zero and at all ones. -/
theorem resultsAreInRange : Obligations.ResultsAreInRange := by
  unfold Obligations.ResultsAreInRange
  intro i s hp hs
  refine ⟨_, commandResult_eq_popcount i hp hs, ?_, ?_, ?_⟩
  · rw [toNat_ofNat_popcount]
    exact popcount_le_width i.value
  · exact (ofNat_popcount_eq_iff i.value (by decide)).trans (popcount_eq_zero_iff i.value)
  · exact (ofNat_popcount_eq_iff i.value le_rfl).trans (popcount_eq_width_iff i.value)

end Sys2Proof.Machine
end

section
/-! SUPPORT. The working registers of the command in flight (10_state.md R32 b to e): the accept step establishes what
they hold, every iteration keeps it, no addition wraps, and at the end condition the result is the operand's count. -/

namespace Sys2Proof.Machine

/-- The four selects (R49). -/
theorem select_cases : ∀ c : Select, c = 0#2 ∨ c = 1#2 ∨ c = 2#2 ∨ c = 3#2 := by decide

/-- The bit an iteration adds, as a number (R51 a, b). -/
theorem toNat_testedBit (v : Word) (i : Nat) : (testedBit v i).toNat = (v.getLsbD i).toNat := by
  rw [testedBit_eq]
  cases v.getLsbD i <;> rfl

/-- A sum that is a count does not wrap. -/
theorem toNat_add_of_count {x y : Word} {n : Nat} (h : x.toNat + y.toNat = n) (hn : n ≤ 32) : (x + y).toNat = n := by
  rw [BitVec.toNat_add, h, Nat.mod_eq_of_lt (by omega)]

/-- Where the loop goes on, the index steps without wrapping. -/
theorem toNat_idx_succ {x : BitVec 6} (h : x.toNat < 32) : (x + 1#6).toNat = x.toNat + 1 := by bv_omega

section
variable {operand : Word} {s t : State}

/-! ### The registers of each strategy -/

theorem inFlightInv_naive1 (hs : s.sel = 0#2) : InFlightInv operand s ↔ s.resValid = false ∧
    s.idx.toNat ≤ 32 ∧ s.w = operand ∧ s.acc.toNat = onesBelow operand s.idx.toNat :=
  ⟨fun h => ⟨h.noResult, h.naive1 hs⟩, fun ⟨hv, h⟩ => ⟨hv, fun _ => h, by simp [hs], by simp [hs], by simp [hs]⟩⟩

theorem inFlightInv_naive2 (hs : s.sel = 1#2) : InFlightInv operand s ↔ s.resValid = false ∧
    s.idx = 0#6 ∧ ∃ n ≤ 32, s.w = operand >>> n ∧ s.acc.toNat = onesBelow operand n :=
  ⟨fun h => ⟨h.noResult, h.naive2 hs⟩, fun ⟨hv, h⟩ => ⟨hv, by simp [hs], fun _ => h, by simp [hs], by simp [hs]⟩⟩

theorem inFlightInv_table (hs : s.sel = 2#2) : InFlightInv operand s ↔ s.resValid = false ∧
    s.idx.toNat ≤ 4 ∧ s.w = operand ∧ (¬ s.faultRecorded → s.acc.toNat = onesBelow operand (8 * s.idx.toNat)) :=
  ⟨fun h => ⟨h.noResult, h.table hs⟩, fun ⟨hv, h⟩ => ⟨hv, by simp [hs], by simp [hs], fun _ => h, by simp [hs]⟩⟩

theorem inFlightInv_parallel (hs : s.sel = 3#2) : InFlightInv operand s ↔ s.resValid = false ∧
    s.idx.toNat ≤ 5 ∧ s.acc = 0#32 ∧ FieldsCount s.idx.toNat operand s.w :=
  ⟨fun h => ⟨h.noResult, h.parallel hs⟩, fun ⟨hv, h⟩ => ⟨hv, by simp [hs], by simp [hs], by simp [hs], fun _ => h⟩⟩

/-- What is said of a command in flight is said of its registers and the mark alone. -/
theorem InFlightInv.congr (hregs : SameRegisters s t) (hmark : t.unwrittenReads = s.unwrittenReads)
    (h : InFlightInv operand s) : InFlightInv operand t := by
  obtain ⟨hv, hnaive1, hnaive2, htable, hparallel⟩ := h
  obtain ⟨-, hsel, hw, hacc, hidx, -, hvalid⟩ := hregs
  have hfault : t.faultRecorded ↔ s.faultRecorded := by rw [State.faultRecorded, State.faultRecorded, hmark]
  refine ⟨hvalid.trans hv, ?_, ?_, ?_, ?_⟩
  · rwa [hsel, hw, hacc, hidx]
  · rwa [hsel, hw, hacc, hidx]
  · rwa [hsel, hw, hacc, hidx, hfault]
  · rwa [hsel, hw, hacc, hidx]

/-- A command just accepted has counted nothing yet (R74). -/
theorem accept_inFlightInv (i : Instr) (s : State) : InFlightInv i.value (accept i s) := by
  cases i with
  | naive1 v => exact (inFlightInv_naive1 rfl).mpr ⟨rfl, Nat.zero_le _, rfl, rfl⟩
  | naive2 v => exact (inFlightInv_naive2 rfl).mpr ⟨rfl, rfl, 0, Nat.zero_le _, rfl, rfl⟩
  | table v => exact (inFlightInv_table rfl).mpr ⟨rfl, Nat.zero_le _, rfl, fun _ => rfl⟩
  | parallel v => exact (inFlightInv_parallel rfl).mpr ⟨rfl, Nat.zero_le _, rfl, fieldsCount_zero v⟩

/-! ### What an iteration adds -/

/-- NAIVE1 adds the bit at `IDX` to the 1 bits below it (R59). -/
theorem InFlightInv.naive1_sum (h : InFlightInv operand s) (hs : s.sel = 0#2) :
    s.acc.toNat + (testedBit s.w s.idx.toNat).toNat = onesBelow operand (s.idx.toNat + 1) := by
  obtain ⟨-, -, hw, hacc⟩ := (inFlightInv_naive1 hs).mp h
  rw [toNat_testedBit, hw, hacc, onesBelow]

/-- NAIVE2 adds the next bit to the 1 bits shifted out; while `W` is not 0 there is a next bit (R62). -/
theorem InFlightInv.naive2_sum (h : InFlightInv operand s) (hs : s.sel = 1#2) (hw : s.w ≠ 0#32) :
    ∃ n < 32, s.w = operand >>> n ∧ s.acc.toNat + (testedBit s.w 0).toNat = onesBelow operand (n + 1) := by
  obtain ⟨-, -, n, hn, hshift, hacc⟩ := (inFlightInv_naive2 hs).mp h
  have hbound := bitlen_le_width operand
  have hlt : n < bitlen operand := by
    by_contra hge
    exact hw (hshift.trans ((ushiftRight_eq_zero_iff operand n).mpr (not_lt.mp hge)))
  refine ⟨n, by omega, hshift, ?_⟩
  rw [hshift, testedBit_ushiftRight, toNat_testedBit, hacc, onesBelow]

/-- TABLE adds the entry of lane `IDX`, a popcount, to the 1 bits below the lane (R65). -/
theorem InFlightInv.table_sum (h : InFlightInv operand s) (hinv : TableInv s) (hs : s.sel = 2#2)
    (hmark : ¬ s.faultRecorded) {b : Byte} (hb : s.lutEntry s.laneAddr = some b) :
    s.acc.toNat + b.toNat = onesBelow operand (8 * (s.idx.toNat + 1)) := by
  obtain ⟨-, -, hw, hacc⟩ := (inFlightInv_table hs).mp h
  have hle : popcount s.laneAddr ≤ 8 := popcount_le_width _
  have hcount : b.toNat = popcount (lane operand s.idx.toNat) := by
    rw [hinv.lutEntry_eq hb, BitVec.ofNat_toNat, BitVec.setWidth_eq, BitVec.toNat_ofNat, Nat.mod_eq_of_lt (by omega),
      State.laneAddr, hw]
  rw [hcount, hacc hmark, onesBelow_lane]

/-! ### An iteration keeps what the registers hold -/

theorem InFlightInv.naive1Iterate (h : InFlightInv operand s) (hs : s.sel = 0#2) (hlt : s.idx.toNat < 32) :
    InFlightInv operand (naive1Iterate s) := by
  obtain ⟨hv, -, hw, -⟩ := (inFlightInv_naive1 hs).mp h
  have hidx : (Machine.naive1Iterate s).idx.toNat = s.idx.toNat + 1 := toNat_idx_succ hlt
  refine (inFlightInv_naive1 (s := Machine.naive1Iterate s) hs).mpr ⟨hv, by omega, hw, ?_⟩
  have hle := onesBelow_le operand (s.idx.toNat + 1)
  rw [hidx]
  exact toNat_add_of_count (h.naive1_sum hs) (by omega)

theorem InFlightInv.naive2Iterate (h : InFlightInv operand s) (hs : s.sel = 1#2) (hw : s.w ≠ 0#32) :
    InFlightInv operand (naive2Iterate s) := by
  obtain ⟨hv, hidx, -⟩ := (inFlightInv_naive2 hs).mp h
  obtain ⟨n, hn, hshift, hsum⟩ := h.naive2_sum hs hw
  have hle := onesBelow_le operand (n + 1)
  refine (inFlightInv_naive2 (s := Machine.naive2Iterate s) hs).mpr ⟨hv, hidx, n + 1, hn, ?_, ?_⟩
  · rw [naive2Iterate_w, hshift, BitVec.shiftRight_add]
  · exact toNat_add_of_count hsum (by omega)

/-- A recorded fault takes back what is said of `ACC` (R92). -/
theorem InFlightInv.tableIterate (h : InFlightInv operand s) (hinv : TableInv s) (hs : s.sel = 2#2)
    (hlt : s.idx.toNat < 4) (ht : tableIterate s = .next t) : InFlightInv operand t := by
  obtain ⟨hv, -, hw, -⟩ := (inFlightInv_table hs).mp h
  have hidx (u : State) (b : Byte) (hu : u.idx = s.idx) : (u.addEntry b).idx.toNat = s.idx.toNat + 1 := by
    rw [addEntry_idx, hu]
    exact toNat_idx_succ (by omega)
  rcases tableIterate_cases ht with ⟨b, hb, rfl⟩ | ⟨-, -, rfl⟩
  · have hx := hidx s b rfl
    have hbits : (b.setWidth 32).toNat = b.toNat := BitVec.toNat_setWidth_of_le (by decide)
    have hle := onesBelow_le operand (8 * (s.idx.toNat + 1))
    refine (inFlightInv_table (s := s.addEntry b) hs).mpr ⟨hv, by omega, hw, fun hmark => ?_⟩
    rw [hx]
    exact toNat_add_of_count (by rw [hbits]; exact h.table_sum hinv hs hmark hb) (by omega)
  · have hx := hidx (s.noteUnwritten s.laneAddr) (Config.unspecEntry s.draws) rfl
    refine (inFlightInv_table (s := (s.noteUnwritten s.laneAddr).addEntry _) hs).mpr
      ⟨hv, by omega, hw, fun hmark => absurd ?_ hmark⟩
    exact List.append_ne_nil_of_right_ne_nil _ (List.cons_ne_nil _ _)

theorem InFlightInv.parallelIterate (h : InFlightInv operand s) (hs : s.sel = 3#2) (hlt : s.idx.toNat < 5) :
    InFlightInv operand (parallelIterate s) := by
  obtain ⟨hv, -, hacc, hfields⟩ := (inFlightInv_parallel hs).mp h
  have hidx : (s.idx + 1#6).toNat = s.idx.toNat + 1 := toNat_idx_succ (by omega)
  rw [inFlightInv_parallel ((parallelIterate_sel s).trans hs), parallelIterate_of_lt s hlt]
  refine ⟨hv, hidx.trans_le hlt, hacc, ?_⟩
  rw [hidx]
  exact FieldsCount.parallelRound (k := ⟨s.idx.toNat, hlt⟩) hfields

/-! ### The end -/

/-- The result side of the multiplexer is `ACC` for every strategy but PARALLEL (R77). -/
theorem resultMux_of_ne (hs : s.sel ≠ 3#2) : s.resultMux = s.acc := if_neg hs

/-- At its end condition the count of a command is that of the whole operand (R60, R63, R66, R72). -/
theorem InFlightInv.resultMux (h : InFlightInv operand s) (hend : s.endCondition = true)
    (hmark : s.sel = 2#2 → ¬ s.faultRecorded) : s.resultMux.toNat = popcount operand := by
  rcases (endCondition_iff s).mp hend with ⟨hs, hx⟩ | ⟨hs, hw⟩ | ⟨hs, hx⟩ | ⟨hs, hx⟩
  · obtain ⟨-, -, -, hacc⟩ := (inFlightInv_naive1 hs).mp h
    rw [resultMux_of_ne (by simp [hs]), hacc, hx]
    rfl
  · obtain ⟨-, -, n, hn, hshift, hacc⟩ := (inFlightInv_naive2 hs).mp h
    have hlen : bitlen operand ≤ n := (ushiftRight_eq_zero_iff operand n).mp (hshift ▸ hw)
    rw [resultMux_of_ne (by simp [hs]), hacc, onesBelow_of_bitlen_le operand hlen hn]
  · obtain ⟨-, -, -, hacc⟩ := (inFlightInv_table hs).mp h
    rw [resultMux_of_ne (by simp [hs]), hacc (hmark hs), hx]
    rfl
  · obtain ⟨-, -, -, hfields⟩ := (inFlightInv_parallel hs).mp h
    rw [hx] at hfields
    have hcount : s.w = BitVec.ofNat 32 (popcount operand) := hfields.eq_popcount
    rw [State.resultMux, if_pos hs, hcount, toNat_ofNat_popcount]

/-- A command in flight is at most 32 iterations from its end (R78). -/
theorem InFlightInv.endsWithin (h : InFlightInv operand s) : EndsWithin 32 s := by
  rcases select_cases s.sel with hs | hs | hs | hs
  · obtain ⟨-, hidx, -⟩ := (inFlightInv_naive1 hs).mp h
    exact (endsWithin_naive1 hs).mpr ⟨hidx, by omega⟩
  · exact (endsWithin_naive2 hs).mpr s.w.isLt
  · obtain ⟨-, hidx, -⟩ := (inFlightInv_table hs).mp h
    exact (endsWithin_table hs).mpr ⟨hidx, by omega⟩
  · obtain ⟨-, hidx, -⟩ := (inFlightInv_parallel hs).mp h
    exact (endsWithin_parallel hs).mpr ⟨hidx, by omega⟩

/-- Where a strategy iterates it is not at its end (R75). -/
theorem endCondition_of_iterateCondition (h : s.iterateCondition = true) : s.endCondition = false := by
  by_contra hend
  rw [Bool.not_eq_false] at hend
  simp [iterateCondition_of_endCondition hend] at h

/-- A step on the command in flight completes it at its end condition, and otherwise keeps what its registers hold. -/
theorem InFlightInv.completes_or_keeps {i : Instr} (h : InFlightInv operand s) (hinv : TableInv s) (hp : s.phase = .busy)
    (hi : s.sel = i.sel) (he : exec i s = .next t) :
    (s.endCondition = true ∧ t = complete s) ∨
    (s.endCondition = false ∧ t.phase = .busy ∧ t.sel = s.sel ∧ InFlightInv operand t) := by
  rcases exec_cases he with ⟨hidle, -⟩ | ⟨-, hne, -⟩ | ⟨-, -, -, hend, rfl⟩ | ⟨-, -, -, hend, rfl⟩ |
    ⟨-, -, hs, hlt, rfl⟩ | ⟨-, -, hs, hw, rfl⟩ | ⟨-, -, hs, hlt, ht⟩ | ⟨-, -, hs, hlt, rfl⟩
  · simp [hp] at hidle
  · exact absurd hi hne
  · exact .inr ⟨hend, hp, rfl, h⟩
  · exact .inl ⟨hend, rfl⟩
  · have hend := endCondition_of_iterateCondition ((iterateCondition_naive1 hs).trans (decide_eq_true hlt))
    exact .inr ⟨hend, hp, rfl, h.naive1Iterate hs hlt⟩
  · have hend := endCondition_of_iterateCondition ((iterateCondition_naive2 hs).trans (decide_eq_true hw))
    exact .inr ⟨hend, hp, rfl, h.naive2Iterate hs hw⟩
  · have hend : s.endCondition = false :=
      endCondition_of_iterateCondition (by simpa [State.iterateCondition, hs] using hlt)
    obtain ⟨hphase, hsel⟩ : t.phase = s.phase ∧ t.sel = s.sel := by
      rcases tableIterate_cases ht with ⟨b, -, rfl⟩ | ⟨-, -, rfl⟩
      · exact ⟨rfl, rfl⟩
      · exact ⟨rfl, rfl⟩
    exact .inr ⟨hend, hphase.trans hp, hsel, h.tableIterate hinv hs hlt ht⟩
  · have hend := endCondition_of_iterateCondition ((iterateCondition_parallel hs).trans (decide_eq_true hlt))
    exact .inr ⟨hend, (parallelIterate_phase s).trans hp, parallelIterate_sel s, h.parallelIterate hs hlt⟩

end

end Sys2Proof.Machine
end

section
/-! SUPPORT. The invariant over a state and its history (10_state.md R32): three ways to establish it, the history
after each effect of a step, and what it says of the outputs. -/

namespace Sys2Proof.Machine

section
variable {h : History} {s t : State}

/-! ### Establishing the invariant -/

/-- With no command in flight and none completed since the last reset there is the table alone to check. -/
theorem inv_of_no_result (htable : TableInv s) (hp : s.phase = .idle) (hv : s.resValid = false)
    (hc : h.completed = false) : Inv h s where
  table := htable
  inFlight hbusy := by simp [hp] at hbusy
  result hvalid := by simp [hv] at hvalid
  resultHeld _ := hv.trans hc.symm

/-- With a command in flight there is no result to check. -/
theorem inv_of_busy (htable : TableInv s) (hp : s.phase = .busy) (hin : InFlightInv h.operand s) : Inv h s where
  table := htable
  inFlight _ := hin
  result hvalid := by simp [hin.noResult] at hvalid
  resultHeld hidle := by simp [hp] at hidle

/-- The complete step turns the count of the command in flight into the result held (R76). -/
theorem inv_of_complete (htable : TableInv s) (hin : InFlightInv h.operand s) (hend : s.endCondition = true)
    (hc : h.completed = true) : Inv h (complete s) where
  table := tableInv_congr (s := s) rfl rfl htable
  inFlight hbusy := by simp at hbusy
  result _ := ⟨rfl, fun hmark => hin.resultMux hend hmark⟩
  resultHeld _ := hc.symm

/-- The invariant speaks of the registers, the mark and the table only. -/
theorem Inv.congr (hregs : SameRegisters s t) (hmark : t.unwrittenReads = s.unwrittenReads) (htable : TableInv t)
    (hinv : Inv h s) : Inv h t := by
  obtain ⟨-, hin, hresult, hheld⟩ := hinv
  obtain ⟨hphase, hsel, -, -, -, hres, hvalid⟩ := id hregs
  have hfault : t.faultRecorded ↔ s.faultRecorded := by rw [State.faultRecorded, State.faultRecorded, hmark]
  refine ⟨htable, fun hp => (hin (hphase ▸ hp)).congr hregs hmark, ?_, ?_⟩
  · rwa [hvalid, hphase, hsel, hfault, hres]
  · rwa [hphase, hvalid]

/-! ### The history after a step -/

theorem after_of_resets (hr : s.resets = true) : h.after s = { h with completed := false } := by
  simp [History.after, hr]

theorem after_of_accepts (hr : s.resets = false) (ha : s.accepts = true) :
    h.after s = { h with operand := s.pins.cmdValue } := by
  simp [History.after, hr, ha]

theorem after_of_completes (hr : s.resets = false) (ha : s.accepts = false) (hc : s.completes = true) :
    h.after s = { h with completed := true } := by
  simp [History.after, hr, ha, hc]

theorem after_of_none (hr : s.resets = false) (ha : s.accepts = false) (hc : s.completes = false) : h.after s = h := by
  simp [History.after, hr, ha, hc]

/-! ### Each effect of a step keeps the invariant -/

/-- The reset event establishes the invariant, from any state (R31). -/
theorem resetEvent_inv (hc : h.completed = false) : Inv h ((resetEvent s).setRst true) :=
  inv_of_no_result (tableInv_congr (s := resetEvent s) rfl rfl (resetEvent_tableInv s)) rfl rfl hc

/-- A step on the command in flight keeps the invariant: the command completes exactly at its end condition. -/
theorem Inv.dispatch (hinv : Inv h s) (hmoves : s.execMoves = true) (hp : s.phase = .busy)
    (hexec : exec s.inFlight s.dropTurn = .next t) : Inv (h.after s) t := by
  have hr : s.resets = false := resets_of_execMoves hmoves
  have ha : s.accepts = false := by simp [State.accepts, hp]
  have hcompletes : s.completes = s.endCondition := by simp [State.completes, hmoves, hp]
  have htable : TableInv s.dropTurn := hinv.table.dropTurn
  have hin : InFlightInv h.operand s.dropTurn := (hinv.inFlight hp).congr (sameBlock_dropTurn s).toSameRegisters rfl
  rcases hin.completes_or_keeps htable hp (inFlight_sel s).symm hexec with ⟨hend, rfl⟩ | ⟨hend, hbusy, -, hin'⟩
  · rw [after_of_completes hr ha (hcompletes.trans hend)]
    exact inv_of_complete htable hin hend rfl
  · rw [after_of_none hr ha (hcompletes.trans hend)]
    obtain ⟨hlut, hidx⟩ := exec_keeps_table hexec
    exact inv_of_busy (tableInv_congr hlut hidx htable) hbusy hin'

/-- Every step keeps the invariant (R32). -/
theorem step_keeps_inv (hinv : Inv h s) (hstep : step s = .next t) : Inv (h.after s) t := by
  have htable : TableInv t := step_keeps_tableInv hinv.table hstep
  cases step_effect hstep with
  | reset hreset heq =>
    subst heq
    rw [after_of_resets hreset]
    exact resetEvent_inv rfl
  | accept haccepts heq =>
    obtain ⟨hturn, -⟩ := (accepts_iff s).mp haccepts
    have hreset : s.resets = false := by simp [resets_eq_false_iff, hturn]
    subst heq
    rw [after_of_accepts hreset haccepts, ← presented_value s]
    exact inv_of_busy htable rfl (accept_inFlightInv _ _)
  | dispatch hmoves hbusy hexec => exact hinv.dispatch hmoves hbusy hexec
  | construct hturn hlutinit =>
    have hmoves : s.execMoves = false := execMoves_of_nextTurn_ne (by simp [hturn])
    have hreset : s.resets = false := by simp [resets_eq_false_iff, hturn]
    have hdrop : Inv h s.dropTurn :=
      hinv.congr (sameBlock_dropTurn s).toSameRegisters rfl hinv.table.dropTurn
    rw [after_of_none hreset (accepts_of_not_execMoves hmoves) (completes_of_not_execMoves hmoves)]
    exact hdrop.congr (lutinitStep_sameRegisters hlutinit) (hdrop.table.lutinitStep_keeps hlutinit).2 htable
  | pass hreset haccepts hcompletes hsame =>
    rw [after_of_none hreset haccepts hcompletes]
    exact hinv.congr hsame.toSameRegisters hsame.unwrittenReads htable

/-! ### The outputs under the invariant -/

/-- A valid count on `rsp_count` is the popcount of the last accepted operand (R57). -/
theorem Inv.rspCount (hinv : Inv h s) (hvalid : s.rspValid = true) (hmark : s.sel = 2#2 → ¬ s.faultRecorded) :
    s.phase = .idle ∧ s.rspCount.toNat = popcount h.operand := by
  obtain ⟨hp, hres⟩ := hinv.result hvalid
  exact ⟨hp, (congrArg BitVec.toNat (rspCount_of_valid hvalid)).trans (hres hmark)⟩

end

/-- A count of 32 bits needs bit 5 for 32 only (R18). -/
theorem testBit_five_iff {n : Nat} (hn : n ≤ 32) : n.testBit 5 = true ↔ n = 32 := by
  rw [Nat.testBit_eq_decide_div_mod_eq, decide_eq_true_iff]
  omega

/-- A count of 32 bits has no bit from 6 up (R18). -/
theorem testBit_of_count {n j : Nat} (hn : n ≤ 32) (hj : 6 ≤ j) : n.testBit j = false := by
  have hpow : 2 ^ 6 ≤ 2 ^ j := Nat.pow_le_pow_right (by decide) hj
  exact Nat.testBit_lt_two_pow (by omega)

end Sys2Proof.Machine
end

section
/-! CERTIFICATE. The invariant (10_state.md R32), the dispatch under it (44_controller.md R75), and the outputs
(10_state.md R28). -/

namespace Sys2Proof.Machine

/-- Settles O40: every effect of a step keeps the invariant, with the history it leaves. -/
theorem stepKeepsInvariant : Obligations.StepKeepsInvariant := by
  unfold Obligations.StepKeepsInvariant
  exact fun h s t => step_keeps_inv

/-- Settles O38: in the state after reset no entry is written and no result is held. -/
theorem resetStateSatisfiesInvariant : Obligations.ResetStateSatisfiesInvariant := by
  unfold Obligations.ResetStateSatisfiesInvariant
  exact fun operand => inv_of_no_result (tableInv_of_empty rfl rfl) rfl rfl rfl

/-- Settles O39: the reset event leaves one of the two tables and no result, whatever it found. -/
theorem resetEventEstablishesInvariant : Obligations.ResetEventEstablishesInvariant := by
  unfold Obligations.ResetEventEstablishesInvariant
  intro h s hreset
  refine ⟨_, step_of_resets hreset, rfl, ?_⟩
  rw [after_of_resets hreset]
  exact resetEvent_inv rfl

/-- Settles O15: under the invariant a strategy that does not iterate is at its end. -/
theorem exactlyOneExecStepIsEnabled : Obligations.ExactlyOneExecStepIsEnabled := by
  unfold Obligations.ExactlyOneExecStepIsEnabled
  refine ⟨fun h s hinv hp => ?_, fun s hp => ⟨execTurn_of_presented hp, execTurn_of_not_presented hp⟩⟩
  have hexec := exec_of_inFlight (i := s.inFlight) hp (inFlight_sel s).symm
  cases hmore : s.iterateCondition with
  | true =>
    have hiterate : exec s.inFlight s = s.iterateStep := by rw [hexec, hmore, if_pos rfl]
    exact .inl ⟨rfl, endCondition_of_iterateCondition hmore, hiterate,
      fun v => (exec_ofSel_of_busy v hp).trans hiterate⟩
  | false =>
    have hend : s.endCondition = true := (hinv.inFlight hp).endsWithin.endCondition hmore
    have hcomplete : exec s.inFlight s = .next (complete s) := exec_of_endCondition hp (inFlight_sel s).symm hend
    exact .inr ⟨rfl, hend, hcomplete, fun v => (exec_ofSel_of_busy v hp).trans hcomplete⟩

/-- Settles O31: what an addition of NAIVE1, NAIVE2 or TABLE gives is a count of at most 32 bits; the masks keep the
terms of a round apart. -/
theorem noAdditionWraps : Obligations.NoAdditionWraps := by
  unfold Obligations.NoAdditionWraps
  intro h s hinv hp
  have hin := hinv.inFlight hp
  refine ⟨fun hs hlt => ?_, fun hs hw => ?_, fun hs hlt hmark b hb => ?_, fun _ _ => and_mask_add_lt _ _ _⟩
  · have hidx : s.idx.toNat < 32 := hlt
    have hle := onesBelow_le h.operand (s.idx.toNat + 1)
    rw [hin.naive1_sum hs]
    omega
  · obtain ⟨n, hn, -, hsum⟩ := hin.naive2_sum hs hw
    have hle := onesBelow_le h.operand (n + 1)
    omega
  · have hidx : s.idx.toNat < 4 := hlt
    have hle := onesBelow_le h.operand (8 * (s.idx.toNat + 1))
    rw [hin.table_sum hinv.table hs hmark hb]
    omega

/-- Settles O52: the outputs by their definitions; a valid count is a popcount of 32 bits. -/
theorem outputsAreFunctionsOfTheState : Obligations.OutputsAreFunctionsOfTheState := by
  unfold Obligations.OutputsAreFunctionsOfTheState
  refine ⟨fun s => ⟨decide_eq_true_iff, rfl, rspCount_of_valid, fun hv => by simp [State.rspCount, hv],
    lutReady_iff s⟩, fun h s hinv hvalid hmark => ?_⟩
  obtain ⟨-, hcount⟩ := hinv.rspCount hvalid hmark
  have hle : s.rspCount.toNat ≤ 32 := hcount.trans_le (popcount_le_width h.operand)
  exact ⟨hle, fun j hj => testBit_of_count hle hj⟩

/-- Settles O53: the invariant says so of `RES`, which `rsp_count` shows. -/
theorem validResultIsThePopcount : Obligations.ValidResultIsThePopcount := by
  unfold Obligations.ValidResultIsThePopcount
  intro h s hinv hvalid hmark
  obtain ⟨hp, hcount⟩ := hinv.rspCount hvalid hmark
  refine ⟨decide_eq_true hp, hcount, ?_⟩
  rw [← BitVec.testBit_toNat, hcount, testBit_five_iff (popcount_le_width h.operand), popcount_eq_width_iff]
  rfl

end Sys2Proof.Machine
end

section
/-! SUPPORT. TABLE on a table that need not be complete (42_table.md R64 to R67): one lookup of a written and of an
unwritten entry, four lookups of written entries, and four lookups where the machine goes on whatever it reads. -/

namespace Sys2Proof.Machine

/-! ### One lookup -/

section
variable {s t : State}

theorem iterateCondition_table (h : s.sel = 2#2) : s.iterateCondition = decide (s.idx < 4#6) := by
  simp only [State.iterateCondition, h]

theorem iterateStep_naive1 (h : s.sel = 0#2) : s.iterateStep = .next (naive1Iterate s) := by
  simp only [State.iterateStep, h]

theorem iterateStep_naive2 (h : s.sel = 1#2) : s.iterateStep = .next (naive2Iterate s) := by
  simp only [State.iterateStep, h]

theorem iterateStep_table (h : s.sel = 2#2) : s.iterateStep = tableIterate s := by
  simp only [State.iterateStep, h]

theorem iterateStep_parallel (h : s.sel = 3#2) : s.iterateStep = .next (parallelIterate s) := by
  simp only [State.iterateStep, h]

/-- Below 4 an EXEC step on the TABLE command in flight is its iterate step (R65, R75). -/
theorem exec_table_of_lt (v : Word) (hp : s.phase = .busy) (hs : s.sel = 2#2) (hlt : s.idx < 4#6) :
    exec (.table v) s = tableIterate s := by
  rw [exec_of_inFlight (i := .table v) hp hs, iterateCondition_table hs, decide_eq_true hlt, if_pos rfl,
    iterateStep_table hs]

/-- At 4 an EXEC step on the TABLE command in flight is the complete step (R66, R75). -/
theorem exec_table_of_eq (v : Word) (hp : s.phase = .busy) (hs : s.sel = 2#2) (h4 : s.idx = 4#6) :
    exec (.table v) s = .next (complete s) :=
  exec_of_endCondition hp hs ((endCondition_iff s).mpr (.inr (.inr (.inl ⟨hs, h4⟩))))

/-- A lookup of an unwritten entry goes on with an unspecified byte under the mark, where the configuration says so. -/
theorem tableIterate_of_goOn (h : s.lutEntry s.laneAddr = none) (hgo : s.params.onUnwritten = .goOn) :
    tableIterate s = .next ((s.noteUnwritten s.laneAddr).addEntry (Config.unspecEntry s.draws)) := by
  simp only [tableIterate, lutLoad, h, hgo]

/-- A lookup of an unwritten entry faults with its address, where the configuration says so. -/
theorem tableIterate_of_fault (h : s.lutEntry s.laneAddr = none) (hfault : s.params.onUnwritten = .fault) :
    tableIterate s = .fault (.lutEntryUnwritten s.laneAddr) := by
  simp only [tableIterate, lutLoad, h, hfault]

/-- With `lut_ready` 1 every address is that of a written entry (R26). -/
theorem lt_initIdx_of_lutReady (h : s.lutReady = true) (a : Byte) : a.toNat < s.initIdx.toNat := by
  rw [(lutReady_iff s).mp h]
  exact a.isLt

end

/-! ### Four lookups of written entries -/

/-- TABLE as a function of a table that holds the popcounts of the operand's lanes is the popcount (R64). -/
theorem tableCount_of_written {m : Memory} {v : Word} (h : ∀ j < 4, m.read (lane v j).toNat =
    some (BitVec.ofNat 8 (popcount (BitVec.ofNat 8 (lane v j).toNat)))) :
    tableCount m v = some (BitVec.ofNat 32 (popcount v)) := by
  have hfirst := ofNat_onesBelow_add_entry v 0
  rw [show BitVec.ofNat 32 (onesBelow v (8 * 0)) = 0#32 from rfl, BitVec.zero_add] at hfirst
  simp only [tableCount, h 0 (by decide), h 1 (by decide), h 2 (by decide), h 3 (by decide), hfirst,
    ofNat_onesBelow_add_entry]
  rfl

/-- A lookup of a written entry adds the count of the next lane (R65). -/
theorem exec_tableAfter_of_written (u : Word) {v : Word} {s : State} (hs : TableInv s) {n : Nat} (hn : n < 4)
    (hlane : (lane v n).toNat < s.initIdx.toNat) :
    exec (.table u) (s.tableAfter v n) = .next (s.tableAfter v (n + 1)) := by
  have hidx : (BitVec.ofNat 6 n).toNat = n := by
    rw [BitVec.toNat_ofNat, Nat.mod_eq_of_lt (by omega)]
  have hlt : (s.tableAfter v n).idx < 4#6 := BitVec.lt_def.mpr (hidx.trans_lt hn)
  have hentry : (s.tableAfter v n).lutEntry (s.tableAfter v n).laneAddr =
      some (BitVec.ofNat 8 (popcount (BitVec.ofNat 8 (lane v n).toNat))) := by
    rw [show (s.tableAfter v n).laneAddr = lane v n from congrArg (lane v) hidx]
    exact hs.lutEntry_of_lt hlane
  rw [exec_table_of_lt u rfl rfl hlt, tableIterate_of_written hentry]
  simp only [State.tableAfter, State.addEntry, ofNat_onesBelow_add_entry, BitVec.ofNat_add]

/-- From any lookup on, the lookups that are left and the complete step end the command (R65, R66). -/
theorem execTimes_tableAfter (u : Word) {v : Word} {s : State} (hs : TableInv s)
    (hlanes : ∀ j < 4, (lane v j).toNat < s.initIdx.toNat) {k n : Nat} (h : k + n = 4) :
    execTimes (.table u) (n + 1) (s.tableAfter v k) = .next (complete (s.tableAfter v 4)) := by
  induction n generalizing k with
  | zero =>
    obtain rfl : k = 4 := h
    rw [execTimes_succ, exec_table_of_eq u rfl rfl rfl, andThen_next]
    rfl
  | succ n ih =>
    have hk : k < 4 := by omega
    rw [execTimes_succ, exec_tableAfter_of_written u hs hk (hlanes k hk), andThen_next]
    exact ih (by omega)

/-! ### Four lookups, whatever they read -/

/-- `t` is `s` with TABLE on `v` in flight after `n` lookups, whatever these have read and added. -/
structure LookupsDone (v : Word) (n : Nat) (s t : State) : Prop where
  phase : t.phase = .busy
  sel : t.sel = 2#2
  w : t.w = v
  idx : t.idx = BitVec.ofNat 6 n
  lut : t.lut = s.lut
  initIdx : t.initIdx = s.initIdx
  params : t.params = s.params

theorem accept_lookupsDone (v : Word) (s : State) : LookupsDone v 0 s (accept (.table v) s) :=
  ⟨rfl, rfl, rfl, rfl, rfl, rfl, rfl⟩

/-- Where unwritten reads go on, every lookup answers (R65). -/
theorem LookupsDone.lookup {v : Word} {n : Nat} {s t : State} (u : Word) (h : LookupsDone v n s t) (hn : n < 4)
    (hgo : s.params.onUnwritten = .goOn) : ∃ t', exec (.table u) t = .next t' ∧ LookupsDone v (n + 1) s t' := by
  obtain ⟨hphase, hsel, hw, hidx, hlut, hinit, hparams⟩ := h
  have hlt : t.idx < 4#6 := by
    rw [hidx, BitVec.lt_def, BitVec.toNat_ofNat, Nat.mod_eq_of_lt (by omega)]
    exact hn
  have hnext : t.idx + 1#6 = BitVec.ofNat 6 (n + 1) := by rw [hidx, BitVec.ofNat_add]
  rw [exec_table_of_lt u hphase hsel hlt]
  cases hentry : t.lutEntry t.laneAddr with
  | some b => exact ⟨_, tableIterate_of_written hentry, hphase, hsel, hw, hnext, hlut, hinit, hparams⟩
  | none =>
    exact ⟨_, tableIterate_of_goOn hentry (hparams ▸ hgo), hphase, hsel, hw, hnext, hlut, hinit, hparams⟩

/-- From any lookup on, the lookups that are left and the complete step end the command, whatever is read (R66). -/
theorem LookupsDone.completes {v : Word} {k n : Nat} {s t : State} (u : Word) (h : LookupsDone v k s t) (hk : k + n = 4)
    (hgo : s.params.onUnwritten = .goOn) :
    ∃ t', LookupsDone v 4 s t' ∧ execTimes (.table u) (n + 1) t = .next (complete t') := by
  induction n generalizing k t with
  | zero =>
    obtain rfl : k = 4 := hk
    refine ⟨t, h, ?_⟩
    rw [execTimes_succ, exec_table_of_eq u h.phase h.sel h.idx, andThen_next]
    rfl
  | succ n ih =>
    obtain ⟨t', hexec, hdone⟩ := h.lookup u (by omega) hgo
    rw [execTimes_succ, hexec, andThen_next]
    exact ih hdone (by omega)

end Sys2Proof.Machine
end

section
/-! CERTIFICATE. TABLE (42_table.md R64 to R67, 70_reset_and_hazards.md section 3). -/

namespace Sys2Proof.Machine

/-- Settles O12: the step is the iterate step below 4, by whether the entry is written; from 4 on there is no lookup. -/
theorem tableIterateReadsOneLane : Obligations.TableIterateReadsOneLane := by
  unfold Obligations.TableIterateReadsOneLane
  intro v s addr hp hs haddr
  obtain rfl : addr = s.laneAddr := haddr
  refine ⟨fun hlt => ⟨fun hinv hwritten => ?_, fun hunwritten hgo => ?_, fun hunwritten hfault => ?_,
    fun hready => lt_initIdx_of_lutReady hready s.laneAddr⟩, fun hge t ht => ?_⟩
  · rw [exec_table_of_lt v hp hs hlt, tableIterate_of_written (hinv.lutEntry_of_lt hwritten), State.addEntry,
      setWidth_entry]
  · rw [exec_table_of_lt v hp hs hlt, tableIterate_of_goOn (lutEntry_of_le s _ hunwritten) hgo]
    rfl
  · rw [exec_table_of_lt v hp hs hlt, tableIterate_of_fault (lutEntry_of_le s _ hunwritten) hfault]
  · have hm : s.iterateCondition = false := (iterateCondition_table hs).trans (decide_eq_false hge)
    obtain ⟨-, hacc, hidx⟩ := exec_keeps_registers_of_no_iteration hp hm ht
    exact ⟨hacc, hidx⟩

/-- Settles O18: each lookup of a written entry adds the count of one more lane. -/
theorem tableSumsFourLanes : Obligations.TableSumsFourLanes := by
  unfold Obligations.TableSumsFourLanes
  intro v s hp hinv hlanes
  refine ⟨tableCount_of_written fun j hj => ?_, ?_⟩
  · rw [hinv.entries, if_pos (hlanes j hj)]
  · rw [execTimes_succ, exec_idle _ s hp, andThen_next, accept_table,
      execTimes_tableAfter v hinv hlanes (Nat.zero_add 4)]
    rfl

/-- Settles O25: a lookup that goes on whatever it reads steps `IDX`, and writes neither the table nor `W`. -/
theorem earlyTableStillCompletes : Obligations.EarlyTableStillCompletes := by
  unfold Obligations.EarlyTableStillCompletes
  intro v s hp hgo
  obtain ⟨t, hdone, htimes⟩ := (accept_lookupsDone v s).completes v (Nat.zero_add 4) hgo
  refine ⟨complete t, ?_, rfl, rfl, resultMux_of_ne (by simp [hdone.sel]), hdone.sel, hdone.w, hdone.idx, hdone.lut,
    hdone.initIdx⟩
  rw [execTimes_succ, exec_idle _ s hp, andThen_next, htimes]

end Sys2Proof.Machine
end

section
/-! SUPPORT. Progress under the host's duty (70_reset_and_hazards.md R104, 44_controller.md R78): no step faults or
reads an unwritten entry, and each EXEC step brings the command in flight nearer to the delivery of its count. -/

namespace Sys2Proof.Machine

section
variable {operand : Word} {i : Instr} {s t : State}

/-- The duty kept, an EXEC step on any command answers and reads no unwritten entry (R104). -/
theorem exec_answers (i : Instr) (hinv : TableInv s) (hduty : s.tableDutyKept) :
    ∃ t, exec i s = .next t ∧ t.unwrittenReads = s.unwrittenReads := by
  cases hp : s.phase with
  | idle => exact ⟨_, exec_idle i s hp, rfl⟩
  | busy =>
    by_cases hsel : s.sel = i.sel
    · have hiterate : ∃ t, s.iterateStep = .next t ∧ t.unwrittenReads = s.unwrittenReads := by
        rcases select_cases s.sel with hs | hs | hs | hs
        · exact ⟨_, iterateStep_naive1 hs, rfl⟩
        · exact ⟨_, iterateStep_naive2 hs, rfl⟩
        · have hentry := lutEntry_of_complete ⟨hinv, hduty hp hs⟩ s.laneAddr
          exact ⟨_, (iterateStep_table hs).trans (tableIterate_of_written hentry), rfl⟩
        · exact ⟨_, iterateStep_parallel hs, parallelIterate_unwrittenReads s⟩
      rw [exec_of_inFlight hp hsel]
      split
      · exact hiterate
      · split
        · exact ⟨_, rfl, rfl⟩
        · exact ⟨_, rfl, rfl⟩
    · exact ⟨_, exec_of_other hp hsel, rfl⟩

/-- While busy an EXEC step leaves `SEL` as it is (R14). -/
theorem exec_keeps_sel (hp : s.phase = .busy) (h : exec i s = .next t) : t.sel = s.sel := by
  rcases exec_cases h with ⟨hidle, -⟩ | ⟨-, -, rfl⟩ | ⟨-, -, -, -, rfl⟩ | ⟨-, -, -, -, rfl⟩ | ⟨-, -, -, -, rfl⟩ |
    ⟨-, -, -, -, rfl⟩ | ⟨-, -, -, -, hlookup⟩ | ⟨-, -, -, -, rfl⟩
  on_goal 1 => simp [hp] at hidle
  on_goal 6 => rcases tableIterate_cases hlookup with ⟨b, -, rfl⟩ | ⟨-, -, rfl⟩
  all_goals simp

/-! ### No step faults -/

/-- The duty kept, EXEC's turn does not fault. -/
theorem execTurn_ne_fault (hinv : TableInv s) (hduty : s.tableDutyKept) (f : Fault) : execTurn s ≠ .fault f := by
  intro h
  cases hp : s.phase with
  | busy =>
    obtain ⟨t, hexec, -⟩ := exec_answers s.inFlight hinv hduty
    rw [execTurn_of_busy hp, hexec] at h
    cases h
  | idle =>
    cases hv : s.pins.cmdValid with
    | true => rw [execTurn_of_presented hp hv] at h; cases h
    | false => rw [execTurn_of_not_presented hp hv] at h; cases h

/-- With the table as constructed so far a LUTINIT step does not fault (R42). -/
theorem TableInv.lutinitStep_ne_fault (hinv : TableInv s) (f : Fault) : lutinitStep s ≠ .fault f := by
  intro h
  rcases hinv.lutinitStep_cases with ⟨-, heq⟩ | ⟨-, heq⟩
  · rw [heq] at h; cases h
  · rw [heq] at h; cases h

/-- A turn of the block faults only where the agent's turn does. -/
theorem blockTurn_ne_fault {turn : State → StepResult} (h : ∀ f, turn s ≠ .fault f) (f : Fault) :
    blockTurn turn s ≠ .fault f := by
  unfold blockTurn
  split
  · split
    · exact nofun
    · exact h f
  · exact nofun

theorem step_ne_fault (hinv : TableInv s) (hduty : s.tableDutyKept) (f : Fault) : step s ≠ .fault f := by
  have hdrop : TableInv s.dropTurn := hinv.dropTurn
  cases hturn : s.nextTurn with
  | host m => rw [step_of_host hturn]; exact nofun
  | exec => rw [step_of_exec hturn]; exact blockTurn_ne_fault (execTurn_ne_fault (s := s.dropTurn) hdrop hduty) f
  | lutinit => rw [step_of_lutinit hturn]; exact blockTurn_ne_fault hdrop.lutinitStep_ne_fault f

/-- The duty kept, no step reads an unwritten entry. -/
theorem step_keeps_unwrittenReads (hinv : TableInv s) (hduty : s.tableDutyKept) (hstep : step s = .next t) :
    t.unwrittenReads = s.unwrittenReads := by
  have hdrop : TableInv s.dropTurn := hinv.dropTurn
  cases step_effect hstep with
  | reset _ heq => rw [heq]; rfl
  | accept _ heq => rw [heq]; rfl
  | dispatch _ _ hexec =>
    obtain ⟨u, hu, hmark⟩ := exec_answers s.inFlight hdrop hduty
    rw [hu] at hexec
    cases hexec
    exact hmark
  | construct _ hlutinit => exact (hdrop.lutinitStep_keeps hlutinit).2
  | pass _ _ _ hsame => exact hsame.unwrittenReads

/-- A step after which TABLE is in flight found it in flight or accepted it. -/
theorem table_inFlight_after (hstep : step s = .next t) (hp : t.phase = .busy) (hs : t.sel = 2#2) :
    s.resets = false ∧ ((s.phase = .busy ∧ s.sel = 2#2) ∨ (s.accepts = true ∧ s.pins.cmdSel = 2#2)) := by
  cases step_effect hstep with
  | reset _ heq => simp [heq] at hp
  | accept haccepts heq =>
    obtain ⟨hturn, -⟩ := (accepts_iff s).mp haccepts
    rw [heq, accept_sel, presented_sel] at hs
    exact ⟨by simp [resets_eq_false_iff, hturn], .inr ⟨haccepts, hs⟩⟩
  | dispatch hmoves hbusy hexec =>
    have hsel : t.sel = s.sel := exec_keeps_sel (s := s.dropTurn) hbusy hexec
    exact ⟨resets_of_execMoves hmoves, .inl ⟨hbusy, hsel ▸ hs⟩⟩
  | construct hturn hlutinit =>
    obtain ⟨hphase, hsel, -⟩ := lutinitStep_sameRegisters hlutinit
    exact ⟨by simp [resets_eq_false_iff, hturn], .inl ⟨hphase.symm.trans hp, hsel.symm.trans hs⟩⟩
  | pass hreset _ _ hsame => exact ⟨hreset, .inl ⟨hsame.phase.symm.trans hp, hsame.sel.symm.trans hs⟩⟩

/-- The duty kept stays kept where the host keeps it at this step (R104). -/
theorem step_keeps_tableDuty (hduty : s.tableDutyKept) (hhost : s.keepsTableDuty) (hstep : step s = .next t) :
    t.tableDutyKept := by
  intro hp hs
  obtain ⟨hreset, ⟨hbusy, hsel⟩ | ⟨haccepts, hsel⟩⟩ := table_inFlight_after hstep hp hs
  · exact step_keeps_lutReady (hduty hbusy hsel) hreset hstep
  · exact step_keeps_lutReady (hhost haccepts hsel) hreset hstep

/-! ### Each EXEC step brings the delivery nearer -/

/-- The premises under which a command in flight delivers its operand's count: a TABLE command finds the table complete,
and no unwritten entry has been read. -/
structure Attended (s : State) : Prop where
  table : TableInv s
  duty : s.tableDutyKept
  unmarked : s.sel = 2#2 → ¬ s.faultRecorded

/-- The command on `operand` has been completed with its count, or is in flight and will be after `n` EXEC steps at
most. -/
inductive Delivers (operand : Word) : Nat → State → Prop
  | done {n : Nat} {s : State} (hp : s.phase = .idle) (hv : s.resValid = true)
      (hres : s.res.toNat = popcount operand) : Delivers operand n s
  | inFlight {n : Nat} {s : State} (hp : s.phase = .busy) (hin : InFlightInv operand s) (hends : EndsWithin n s) :
      Delivers operand (n + 1) s

/-- With no step left the command has been completed. -/
theorem Delivers.of_zero (h : Delivers operand 0 s) :
    s.phase = .idle ∧ s.resValid = true ∧ s.res.toNat = popcount operand := by
  cases h with
  | done hp hv hres => exact ⟨hp, hv, hres⟩

/-- One EXEC step on the command in flight (R75, R78). -/
theorem InFlightInv.exec_delivers {n : Nat} (hin : InFlightInv operand s) (hends : EndsWithin n s) (hp : s.phase = .busy)
    (hi : s.sel = i.sel) (hatt : Attended s) : ∃ t, exec i s = .next t ∧ t.unwrittenReads = s.unwrittenReads ∧
      t.sel = s.sel ∧ Attended t ∧ Delivers operand n t := by
  obtain ⟨htable, hduty, hunmarked⟩ := hatt
  obtain ⟨t, hexec, hmark⟩ := exec_answers i htable hduty
  have hsel : t.sel = s.sel := exec_keeps_sel hp hexec
  obtain ⟨hlut, hidx⟩ := exec_keeps_table hexec
  have hatt' : Attended t := by
    refine ⟨tableInv_congr hlut hidx htable, fun _ hs => ?_, ?_⟩
    · rw [lutReady_congr hidx]
      exact hduty hp (hsel ▸ hs)
    · rwa [hsel, State.faultRecorded, hmark]
  refine ⟨t, hexec, hmark, hsel, hatt', ?_⟩
  rcases hin.completes_or_keeps htable hp hi hexec with ⟨hend, rfl⟩ | ⟨-, hbusy, -, hin'⟩
  · exact .done rfl rfl (hin.resultMux hend hunmarked)
  · rcases exec_endsWithin hp hi hends hexec with hidle | ⟨-, -, m, rfl, hm⟩
    · simp [hbusy] at hidle
    · exact .inFlight hbusy hin' hm

/-- The EXEC steps on the command in flight deliver its operand's count (R78). -/
theorem InFlightInv.execTimes_delivers {n : Nat} (hin : InFlightInv operand s) (hends : EndsWithin n s)
    (hp : s.phase = .busy) (hi : s.sel = i.sel) (hatt : Attended s) :
    ∃ k ≤ n + 1, ∃ t, execTimes i k s = .next t ∧ Delivers operand 0 t := by
  induction n generalizing s with
  | zero =>
    obtain ⟨t, hexec, -, -, -, hdel⟩ := hin.exec_delivers hends hp hi hatt
    exact ⟨1, le_rfl, t, by rw [execTimes_succ, hexec]; rfl, hdel⟩
  | succ n ih =>
    obtain ⟨t, hexec, -, hsel, hatt', hdel⟩ := hin.exec_delivers hends hp hi hatt
    cases hdel with
    | done hp' hv hres => exact ⟨1, by omega, t, by rw [execTimes_succ, hexec]; rfl, .done hp' hv hres⟩
    | inFlight hp' hin' hends' =>
      obtain ⟨k, hk, u, htimes, hu⟩ := ih hin' hends' hp' (hsel.trans hi) hatt'
      exact ⟨k + 1, by omega, u, by rw [execTimes_succ, hexec, andThen_next, htimes], hu⟩

end

end Sys2Proof.Machine
end

section
/-! CERTIFICATE. The host's duty (70_reset_and_hazards.md R104) and progress (44_controller.md R78). -/

namespace Sys2Proof.Machine

/-- Settles O41: a TABLE command in flight finds every entry written, and every entry LUTINIT reads is below
`INIT_IDX`. -/
theorem hostDutyPreventsUnwrittenReads : Obligations.HostDutyPreventsUnwrittenReads := by
  unfold Obligations.HostDutyPreventsUnwrittenReads
  exact fun s hinv hduty hhost => ⟨step_ne_fault hinv hduty, fun t hstep => ⟨step_keeps_tableInv hinv hstep,
    step_keeps_tableDuty hduty hhost hstep, step_keeps_unwrittenReads hinv hduty hstep⟩⟩

/-- Settles O24: a command in flight is at most 32 iterations from its end, and each EXEC step takes one of them. -/
theorem acceptedCommandsComplete : Obligations.AcceptedCommandsComplete := by
  unfold Obligations.AcceptedCommandsComplete
  intro h s hinv hp hduty hunmarked
  have hin := hinv.inFlight hp
  obtain ⟨n, hn, t, htimes, hdel⟩ :=
    hin.execTimes_delivers hin.endsWithin hp (inFlight_sel s).symm ⟨hinv.table, hduty, hunmarked⟩
  exact ⟨n, hn, t, htimes, hdel.of_zero⟩

end Sys2Proof.Machine
end

section
/-! SUPPORT. Two changes of the state that EXEC's turn carries through: the table and `INIT_IDX` under commands that do
not look entries up (20_memory.md R37), and an entry written under a lookup of another (60_exceptions.md R91 c). -/

namespace Sys2Proof.Machine

/-- `f` changes nothing EXEC's registers and conditions are made of, and neither the accept step nor the complete step
nor an iteration without a lookup undoes it. -/
structure BesideExec (f : State → State) : Prop where
  phase : ∀ s, (f s).phase = s.phase
  sel : ∀ s, (f s).sel = s.sel
  w : ∀ s, (f s).w = s.w
  idx : ∀ s, (f s).idx = s.idx
  accept : ∀ i s, accept i (f s) = f (accept i s)
  complete : ∀ s, complete (f s) = f (complete s)
  naive1 : ∀ s, naive1Iterate (f s) = f (naive1Iterate s)
  naive2 : ∀ s, naive2Iterate (f s) = f (naive2Iterate s)
  parallel : ∀ s, parallelIterate (f s) = f (parallelIterate s)

theorem besideExec_replaceTable (m : Memory) (n : BitVec 9) : BesideExec (State.replaceTable m n) where
  phase _ := rfl
  sel _ := rfl
  w _ := rfl
  idx _ := rfl
  accept _ _ := rfl
  complete _ := rfl
  naive1 _ := rfl
  naive2 _ := rfl
  parallel s := by
    by_cases h : s.idx.toNat < 5
    · rw [parallelIterate_of_lt s h, parallelIterate_of_lt (s.replaceTable m n) h]
      rfl
    · rw [parallelIterate_of_not_lt h, parallelIterate_of_not_lt (s := s.replaceTable m n) h]

/-- An entry written is another table and another `INIT_IDX`, by those of the state. -/
theorem appendEntry_eq_replaceTable (s : State) (b : Byte) :
    s.appendEntry b = s.replaceTable (s.lut.write s.initIdx.toNat b) (s.initIdx + 1#9) := rfl

theorem besideExec_appendEntry (b : Byte) : BesideExec (fun s => s.appendEntry b) where
  phase _ := rfl
  sel _ := rfl
  w _ := rfl
  idx _ := rfl
  accept _ _ := rfl
  complete _ := rfl
  naive1 _ := rfl
  naive2 _ := rfl
  parallel s := by
    rw [appendEntry_eq_replaceTable, (besideExec_replaceTable _ _).parallel, appendEntry_eq_replaceTable,
      parallelIterate_lut, parallelIterate_initIdx]

section
variable {f : State → State} {i : Instr} {s : State}

theorem BesideExec.iterateCondition (hf : BesideExec f) (s : State) :
    (f s).iterateCondition = s.iterateCondition := by
  rw [State.iterateCondition, hf.sel, hf.w, hf.idx, State.iterateCondition]

theorem BesideExec.endCondition (hf : BesideExec f) (s : State) : (f s).endCondition = s.endCondition := by
  rw [State.endCondition, hf.sel, hf.w, hf.idx, State.endCondition]

/-- Where a lookup carries the change through, an EXEC step on any command does (R74 to R76). -/
theorem BesideExec.exec_eq (hf : BesideExec f) (hlookup : s.phase = .busy → s.sel = i.sel → s.sel = 2#2 →
      s.iterateCondition = true → tableIterate (f s) = mapNext f (tableIterate s)) :
    exec i (f s) = mapNext f (exec i s) := by
  cases hp : s.phase with
  | idle =>
    rw [exec_idle i s hp, exec_idle i (f s) ((hf.phase s).trans hp), hf.accept]
    rfl
  | busy =>
    have hpf : (f s).phase = .busy := (hf.phase s).trans hp
    by_cases hsel : s.sel = i.sel
    · rw [exec_of_inFlight hp hsel, exec_of_inFlight hpf ((hf.sel s).trans hsel), hf.iterateCondition, hf.endCondition]
      cases hmore : s.iterateCondition with
      | true =>
        simp only [if_true]
        rcases select_cases s.sel with hs | hs | hs | hs
        · rw [iterateStep_naive1 hs, iterateStep_naive1 ((hf.sel s).trans hs), hf.naive1]
          rfl
        · rw [iterateStep_naive2 hs, iterateStep_naive2 ((hf.sel s).trans hs), hf.naive2]
          rfl
        · rw [iterateStep_table hs, iterateStep_table ((hf.sel s).trans hs)]
          exact hlookup hp hsel hs hmore
        · rw [iterateStep_parallel hs, iterateStep_parallel ((hf.sel s).trans hs), hf.parallel]
          rfl
      | false =>
        cases s.endCondition with
        | true => simp [hf.complete, mapNext]
        | false => simp [mapNext]
    · have hself : (f s).sel ≠ i.sel := (hf.sel s).symm ▸ hsel
      rw [exec_of_other hp hsel, exec_of_other hpf hself]
      rfl

end

/-! ### A lookup beside the entry being written -/

/-- Writing entry `INIT_IDX` does not change what any other address reads (R91 c). -/
theorem lutEntry_appendEntry {s : State} {a : Byte} (b : Byte) (hlt : s.initIdx.toNat < 256)
    (hne : a.toNat ≠ s.initIdx.toNat) : (s.appendEntry b).lutEntry a = s.lutEntry a := by
  have hidx := toNat_appendEntry_initIdx b hlt
  rcases lt_or_gt_of_ne hne with hbelow | habove
  · rw [lutEntry_of_lt s a hbelow, lutEntry_of_lt _ a (by omega), appendEntry_lut, read_write_other _ _ _ _ hne]
  · rw [lutEntry_of_le s a habove.le, lutEntry_of_le _ a (by omega)]

theorem tableIterate_appendEntry {s : State} (b : Byte) (hlt : s.initIdx.toNat < 256)
    (hne : s.laneAddr.toNat ≠ s.initIdx.toNat) :
    tableIterate (s.appendEntry b) = mapNext (fun u => u.appendEntry b) (tableIterate s) := by
  have haddr : (s.appendEntry b).laneAddr = s.laneAddr := rfl
  have hload : lutLoad (s.appendEntry b) s.laneAddr =
      (lutLoad s s.laneAddr).map (Prod.map id fun u => u.appendEntry b) :=
    lutLoad_of_unseen (f := fun u => u.appendEntry b) (lutEntry_appendEntry b hlt hne) rfl rfl rfl
  simp only [tableIterate, haddr, hload]
  cases lutLoad s s.laneAddr <;> rfl

/-- EXEC's turn carries an entry written through, but for a lookup of that entry. -/
theorem execTurn_appendEntry {s : State} (b : Byte) (hlt : s.initIdx.toNat < 256)
    (hne : s.phase = .busy → s.sel = 2#2 → s.idx < 4#6 → s.laneAddr.toNat ≠ s.initIdx.toNat) :
    execTurn (s.appendEntry b) = mapNext (fun u => u.appendEntry b) (execTurn s) := by
  cases hp : s.phase with
  | idle =>
    cases hv : s.pins.cmdValid with
    | true =>
      rw [execTurn_of_presented hp hv, execTurn_of_presented (s := s.appendEntry b) hp hv]
      rfl
    | false =>
      rw [execTurn_of_not_presented hp hv, execTurn_of_not_presented (s := s.appendEntry b) hp hv]
      rfl
  | busy =>
    rw [execTurn_of_busy hp, execTurn_of_busy (s := s.appendEntry b) hp]
    refine (besideExec_appendEntry b).exec_eq fun _ _ hs hmore => tableIterate_appendEntry b hlt (hne hp hs ?_)
    rw [iterateCondition_table hs] at hmore
    exact of_decide_eq_true hmore

/-- Sequences agree on an answer if they agree on its next state. -/
theorem andThen_congr {r : StepResult} {f g : State → StepResult} (h : ∀ t, r = .next t → f t = g t) :
    andThen r f = andThen r g := by
  cases r with
  | next t => exact h t rfl
  | fault e => rfl
  | refused e => rfl

/-- A sequence with a step that changes nothing. -/
theorem andThen_next_id (r : StepResult) : andThen r .next = r := by
  cases r <;> rfl

end Sys2Proof.Machine
end

section
/-! CERTIFICATE. EXEC and LUTINIT beside each other (60_exceptions.md R91 c), and the commands that look no entry up
(20_memory.md R37). -/

namespace Sys2Proof.Machine

/-- Settles O51: the replaced table is carried through every EXEC step but a lookup, which is TABLE's alone. -/
theorem nonTableCommandsIgnoreTheTable : Obligations.NonTableCommandsIgnoreTheTable := by
  unfold Obligations.NonTableCommandsIgnoreTheTable
  exact fun i s m n hi => (besideExec_replaceTable m n).exec_eq fun _ hsel hs _ => absurd (hsel.symm.trans hs) hi

/-- Settles O50: what LUTINIT writes depends on `INIT_IDX` alone, which EXEC's turn leaves, and EXEC's turn carries the
entry written through. -/
theorem execAndLutinitCommute : Obligations.ExecAndLutinitCommute := by
  unfold Obligations.ExecAndLutinitCommute
  intro s hinv hne
  have hafter {t : State} (h : execTurn s = .next t) : TableInv t ∧ t.initIdx = s.initIdx := by
    obtain ⟨hlut, hidx⟩ := execTurn_keeps_table h
    exact ⟨tableInv_congr hlut hidx hinv, hidx⟩
  rcases hinv.lutinitStep_cases with ⟨h256, heq⟩ | ⟨hlt, heq⟩
  · have hdone : ∀ t, execTurn s = .next t → lutinitStep t = .next t := fun t h =>
      lutinitStep_of_lutReady ((lutReady_iff t).mpr ((hafter h).2.trans h256))
    rw [heq, andThen_next, andThen_congr hdone, andThen_next_id]
  · have hwrites : ∀ t, execTurn s = .next t → lutinitStep t =
        .next (t.appendEntry (BitVec.ofNat 8 (popcount (BitVec.ofNat 8 s.initIdx.toNat)))) := fun t h => by
      obtain ⟨htable, hidx⟩ := hafter h
      rw [htable.lutinitStep_of_lt (hidx.symm ▸ hlt), hidx]
    rw [heq, andThen_next, andThen_congr hwrites, execTurn_appendEntry _ hlt hne]
    rfl

end Sys2Proof.Machine
end

section
/-! SUPPORT. Runs of the machine along an agenda (70_reset_and_hazards.md R109, R110): what a number of steps answers
and accepts, turn by turn: the reset, the construction of the table, the presentation and the turns of EXEC. -/

namespace Sys2Proof.Machine

/-! ### Runs in sequence -/

/-- `n` steps from `s` answer `t`, and the commands accepted in them are `accepted`. -/
structure RunsTo (n : Nat) (s t : State) (accepted : List Instr) : Prop where
  steps : stepTimes n s = .next t
  accepts : acceptedIn n s = accepted

theorem RunsTo.refl (s : State) : RunsTo 0 s s [] := ⟨rfl, rfl⟩

theorem RunsTo.trans {m n : Nat} {s t u : State} {a b : List Instr} (h : RunsTo m s t a) (h' : RunsTo n t u b) :
    RunsTo (m + n) s u (a ++ b) where
  steps := by rw [stepTimes_add, h.steps, andThen_next, h'.steps]
  accepts := by rw [acceptedIn_add n h.steps, h.accepts, h'.accepts]

theorem RunsTo.of_step {s t : State} (h : step s = .next t) (ha : s.accepts = false) : RunsTo 1 s t [] where
  steps := by rw [stepTimes_succ, h]; rfl
  accepts := by simp [acceptedIn, ha, h]

theorem RunsTo.of_accept {s t : State} (h : step s = .next t) (ha : s.accepts = true) : RunsTo 1 s t [s.presented] where
  steps := by rw [stepTimes_succ, h]; rfl
  accepts := by simp [acceptedIn, ha, h]

/-! ### Running with an agenda -/

/-- The block runs with `rest` on the agenda, a command presented exactly where `pending`, its table as constructed so
far and no fault recorded. -/
structure Running (pending : Bool) (rest : List Turn) (s : State) : Prop where
  agenda : s.agenda = rest
  pending : s.pins.cmdValid = pending
  initialised : s.initialised = true
  released : s.pins.rst = false
  table : TableInv s
  noFault : ¬ s.faultRecorded

section
variable {pending : Bool} {turn : Turn} {rest : List Turn} {operand : Word} {n : Nat} {s : State}

theorem nextTurn_of_agenda (h : s.agenda = turn :: rest) : s.nextTurn = turn := by
  simp only [State.nextTurn, h]

theorem Running.nextTurn (h : Running pending (turn :: rest) s) : s.nextTurn = turn := nextTurn_of_agenda h.agenda

theorem Running.dropTurn (h : Running pending (turn :: rest) s) : Running pending rest s.dropTurn where
  agenda := congrArg List.tail h.agenda
  pending := h.pending
  initialised := h.initialised
  released := h.released
  table := h.table.dropTurn
  noFault := h.noFault

theorem Running.execMoves (h : Running pending (.exec :: rest) s) : s.execMoves = true :=
  execMoves_iff.mpr ⟨h.nextTurn, h.initialised, h.released⟩

/-- With no command presented nothing is accepted. -/
theorem Running.not_accepts (h : Running false rest s) : s.accepts = false := by simp [State.accepts, h.pending]

/-- A running block with its table complete attends to any command in flight. -/
theorem Running.attended (h : Running pending rest s) (hready : s.lutReady = true) : Attended s :=
  ⟨h.table, fun _ _ => hready, fun _ => h.noFault⟩

/-- A step on a command leaves the block running. -/
theorem Running.exec {i : Instr} {t : State} (h : Running pending rest s) (hexec : exec i s = .next t)
    (hmark : t.unwrittenReads = s.unwrittenReads) : Running pending rest t := by
  obtain ⟨-, hpins, hagenda, hinitialised⟩ := exec_environment hexec
  obtain ⟨hlut, hidx⟩ := exec_keeps_table hexec
  refine ⟨hagenda.trans h.agenda, hpins ▸ h.pending, hinitialised.trans h.initialised, hpins ▸ h.released,
    tableInv_congr hlut hidx h.table, ?_⟩
  rw [State.faultRecorded, hmark]
  exact h.noFault

/-! ### Turns of EXEC -/

/-- EXEC's turn brings the delivery of the command in flight one step nearer, and passes once it has been delivered. -/
theorem Running.exec_turn (h : Running false (.exec :: rest) s) (hready : s.lutReady = true)
    (hdel : Delivers operand (n + 1) s) :
    ∃ t, RunsTo 1 s t [] ∧ Running false rest t ∧ t.lutReady = true ∧ Delivers operand n t := by
  have hstep := step_of_execMoves h.execMoves
  cases hdel with
  | done hp hv hres =>
    rw [execTurn_of_not_presented (s := s.dropTurn) hp h.pending] at hstep
    exact ⟨s.dropTurn, .of_step hstep h.not_accepts, h.dropTurn, hready, .done hp hv hres⟩
  | inFlight hp hin hends =>
    have hin' : InFlightInv operand s.dropTurn := hin.congr (sameBlock_dropTurn s).toSameRegisters rfl
    obtain ⟨t, hexec, hmark, -, -, hdel⟩ := hin'.exec_delivers (i := s.inFlight) (n := n) hends hp (inFlight_sel s).symm
      (h.dropTurn.attended hready)
    rw [execTurn_of_busy (s := s.dropTurn) hp, inFlight_dropTurn, hexec] at hstep
    exact ⟨t, .of_step hstep h.not_accepts, h.dropTurn.exec hexec hmark,
      (lutReady_congr (exec_keeps_table hexec).2).trans hready, hdel⟩

/-- As many turns of EXEC as a delivery may take deliver the count. -/
theorem Running.exec_turns (h : Running false (List.replicate n Turn.exec ++ rest) s) (hready : s.lutReady = true)
    (hdel : Delivers operand n s) :
    ∃ t, RunsTo n s t [] ∧ Running false rest t ∧ t.lutReady = true ∧ Delivers operand 0 t := by
  induction n generalizing s with
  | zero => exact ⟨s, .refl s, h, hready, hdel⟩
  | succ n ih =>
    obtain ⟨t, hrun, ht, hready', hdel'⟩ := Running.exec_turn h hready hdel
    obtain ⟨u, hrun', hu⟩ := ih ht hready' hdel'
    exact ⟨u, Nat.add_comm 1 n ▸ hrun.trans hrun', hu⟩

/-- A presented command with 34 turns of EXEC is accepted and delivers the count of its operand (R78, R109). -/
theorem Running.presented_runs (h : Running true (List.replicate 34 Turn.exec ++ rest) s) (hready : s.lutReady = true)
    (hp : s.phase = .idle) : ∃ t, RunsTo 34 s t [s.presented] ∧ Running false rest t ∧ t.lutReady = true ∧
      Delivers s.pins.cmdValue 0 t := by
  have hagenda : Running true (.exec :: (List.replicate 33 Turn.exec ++ rest)) s := h
  have haccepts : s.accepts = true :=
    (accepts_iff s).mpr ⟨hagenda.nextTurn, h.initialised, h.released, hp, h.pending⟩
  have hdrop := hagenda.dropTurn
  have haccepted : Running false (List.replicate 33 Turn.exec ++ rest) (accept s.presented s.dropTurn.takeCommand) :=
    ⟨hdrop.agenda, rfl, hdrop.initialised, hdrop.released, tableInv_congr (s := s) rfl rfl h.table, hdrop.noFault⟩
  have hin := accept_inFlightInv s.presented s.dropTurn.takeCommand
  rw [presented_value] at hin
  obtain ⟨t, hrun, ht⟩ := haccepted.exec_turns hready (.inFlight rfl hin (accept_endsWithin _ _))
  exact ⟨t, (RunsTo.of_accept (step_of_accepts haccepts) haccepts).trans hrun, ht⟩

/-! ### The construction and the reset -/

/-- A LUTINIT turn brings the completion of the table one step nearer. -/
theorem Running.lutinit_turn (h : Running false (.lutinit :: rest) s) (hp : s.phase = .idle)
    (hn : 256 ≤ s.initIdx.toNat + (n + 1)) :
    ∃ t, RunsTo 1 s t [] ∧ Running false rest t ∧ t.phase = .idle ∧ 256 ≤ t.initIdx.toNat + n := by
  have hstep : step s = lutinitStep s.dropTurn := by
    rw [step_of_lutinit h.nextTurn]
    exact blockTurn_of_running lutinitStep (s := s.dropTurn) h.initialised h.released
  have hdrop := h.dropTurn
  rcases hdrop.table.lutinitStep_cases with ⟨h256, heq⟩ | ⟨hlt, heq⟩
  · have hfull : s.dropTurn.initIdx.toNat = 256 := congrArg BitVec.toNat h256
    exact ⟨s.dropTurn, .of_step (hstep.trans heq) h.not_accepts, hdrop, hp, by omega⟩
  · have hidx := toNat_appendEntry_initIdx (BitVec.ofNat 8 (popcount (BitVec.ofNat 8 s.dropTurn.initIdx.toNat))) hlt
    have hsame : s.dropTurn.initIdx.toNat = s.initIdx.toNat := rfl
    exact ⟨_, .of_step (hstep.trans heq) h.not_accepts, ⟨hdrop.agenda, hdrop.pending, hdrop.initialised, hdrop.released,
      hdrop.table.appendEntry hlt, hdrop.noFault⟩, hp, by omega⟩

/-- As many LUTINIT turns as entries are left complete the table (R80). -/
theorem Running.lutinit_turns (h : Running false (List.replicate n Turn.lutinit ++ rest) s) (hp : s.phase = .idle)
    (hn : 256 ≤ s.initIdx.toNat + n) :
    ∃ t, RunsTo n s t [] ∧ Running false rest t ∧ t.phase = .idle ∧ t.lutReady = true := by
  induction n generalizing s with
  | zero =>
    have hfull : s.initIdx = 256#9 := BitVec.eq_of_toNat_eq (h.table.bound.antisymm hn)
    exact ⟨s, .refl s, h, hp, (lutReady_iff s).mpr hfull⟩
  | succ n ih =>
    obtain ⟨t, hrun, ht, hp', hn'⟩ := Running.lutinit_turn h hp hn
    obtain ⟨u, hrun', hu⟩ := ih ht hp' hn'
    exact ⟨u, Nat.add_comm 1 n ▸ hrun.trans hrun', hu⟩

/-- A turn of the host accepts nothing. -/
theorem not_accepts_of_host {m : HostMove} (h : s.nextTurn = .host m) : s.accepts = false :=
  accepts_of_not_execMoves (execMoves_of_nextTurn_ne (by simp [h]))

/-- A step of the host. -/
theorem runsTo_host {m : HostMove} (h : s.nextTurn = .host m) : RunsTo 1 s (hostMove m s.dropTurn) [] :=
  .of_step (step_of_host h) (not_accepts_of_host h)

/-- Reset asserted and released leaves a running, idle block, whatever it found (R101). -/
theorem reset_turns (hagenda : s.agenda = .host .assertReset :: .host .releaseReset :: rest)
    (hpending : s.pins.cmdValid = false) (hmark : ¬ s.faultRecorded) :
    ∃ t, RunsTo 2 s t [] ∧ Running false rest t ∧ t.phase = .idle := by
  have hassert := runsTo_host (nextTurn_of_agenda hagenda)
  have hnext : (hostMove .assertReset s.dropTurn).agenda = .host .releaseReset :: rest := congrArg List.tail hagenda
  have hrelease := runsTo_host (nextTurn_of_agenda hnext)
  exact ⟨_, hassert.trans hrelease, ⟨congrArg List.tail hnext, hpending, rfl, rfl,
    tableInv_congr (s := resetEvent s.dropTurn) rfl rfl (resetEvent_tableInv _), hmark⟩, rfl⟩

/-! ### The commands one after another -/

/-- The turns of one command: the host presents it and EXEC has 34 turns. -/
def commandTurns (i : Instr) : List Turn := .host (.drive true i.sel i.value) :: List.replicate 34 Turn.exec

theorem length_commandTurns (i : Instr) : (commandTurns i).length = 35 := by
  rw [commandTurns, List.length_cons, List.length_replicate]

/-- A command presented and given its turns is accepted and delivers its count. -/
theorem Running.command_runs (i : Instr) (h : Running false (commandTurns i ++ rest) s) (hready : s.lutReady = true)
    (hp : s.phase = .idle) : ∃ t, RunsTo 35 s t [i] ∧ Running false rest t ∧ t.lutReady = true ∧
      Delivers i.value 0 t := by
  have hturn : Running false (.host (.drive true i.sel i.value) :: (List.replicate 34 Turn.exec ++ rest)) s := h
  have hdrop := hturn.dropTurn
  have hdriven : Running true (List.replicate 34 Turn.exec ++ rest) (s.dropTurn.drive true i.sel i.value) :=
    ⟨hdrop.agenda, rfl, hdrop.initialised, hdrop.released, tableInv_congr (s := s) rfl rfl h.table, hdrop.noFault⟩
  have hpresented : (s.dropTurn.drive true i.sel i.value).presented = i := by
    rw [presented_eq]
    exact Instr.ofSel_sel_value i
  obtain ⟨t, hrun, ht⟩ := hdriven.presented_runs hready hp
  rw [hpresented] at hrun
  exact ⟨t, (runsTo_host hturn.nextTurn).trans hrun, ht⟩

/-- Every command of a sequence is accepted in its order, and the last one's count is delivered (R110). -/
theorem Running.commands_run (commands : List Instr) (h : Running false (commands.flatMap commandTurns) s)
    (hready : s.lutReady = true) (hp : s.phase = .idle) :
    ∃ t, RunsTo (commands.flatMap commandTurns).length s t commands ∧ Running false [] t ∧ t.lutReady = true ∧
      t.phase = .idle ∧ ∀ i, commands.getLast? = some i → Delivers i.value 0 t := by
  induction commands generalizing s with
  | nil => exact ⟨s, .refl s, h, hready, hp, fun i hi => nomatch hi⟩
  | cons i commands ih =>
    rw [List.flatMap_cons] at h ⊢
    obtain ⟨t, hrun, ht, hready', hdel⟩ := h.command_runs i hready hp
    obtain ⟨hp', -⟩ := hdel.of_zero
    obtain ⟨u, hrun', hu, hready'', hp'', hlast⟩ := ih ht hready' hp'
    refine ⟨u, ?_, hu, hready'', hp'', fun j hj => ?_⟩
    · rw [List.length_append, length_commandTurns]
      exact hrun.trans hrun'
    · cases commands with
      | nil =>
        cases hrun'.steps
        cases hj
        exact hdel
      | cons k commands => exact hlast j (List.getLast?_cons_cons ▸ hj)

/-! ### The end of a run -/

/-- A running block with its agenda used up has ended its run (R110). -/
theorem Running.ended {commands accepted : List Instr} (h : Running false [] s) (hready : s.lutReady = true)
    (hp : s.phase = .idle) (haccepted : accepted = commands) (hheld : commands ≠ [] → s.resValid = true) :
    RunEnded commands accepted true s where
  allAccepted := haccepted
  nonePending := h.pending
  noneToCome := by simp [h.agenda]
  idle := hp
  resultHeld := hheld
  noFault := h.noFault
  tableBuilt _ := (lutReady_iff s).mp hready

/-- A count that has been delivered shows on `rsp_count` (R28). -/
theorem Delivers.rspCount (h : Delivers operand 0 s) : s.rspCount.toNat = popcount operand := by
  obtain ⟨-, hv, hres⟩ := h.of_zero
  rw [rspCount_of_valid hv, hres]

end

end Sys2Proof.Machine
end

section
/-! CERTIFICATE. The end of a run (70_reset_and_hazards.md R110). -/

namespace Sys2Proof.Machine

/-- Settles O26: the accept takes one turn, the delivery at most the 33 turns after it. -/
theorem presentedCommandRunsToItsEnd : Obligations.PresentedCommandRunsToItsEnd := by
  unfold Obligations.PresentedCommandRunsToItsEnd
  intro s hp hi hr hv hagenda htable hmark
  have hrunning : Running true (List.replicate 34 Turn.exec ++ []) s :=
    ⟨hagenda.trans (List.append_nil _).symm, hv, hi, hr, htable.1, hmark⟩
  obtain ⟨t, hrun, ht, hready, hdel⟩ := hrunning.presented_runs htable.2 hp
  obtain ⟨hp', hv', -⟩ := hdel.of_zero
  exact ⟨t, hrun.steps, ht.ended hready hp' hrun.accepts fun _ => hv', hdel.rspCount, ht.table, hready⟩

/-- Settles O27: the reset, the construction and the commands one after another, each a run of its own. -/
theorem runOfCommandsEnds : Obligations.RunOfCommandsEnds := by
  unfold Obligations.RunOfCommandsEnds
  intro commands s hagenda hv hmark
  have hturns : runTurns commands = .host .assertReset :: .host .releaseReset ::
      (List.replicate 256 Turn.lutinit ++ commands.flatMap commandTurns) := rfl
  have hlength : s.agenda.length = 2 + (256 + (commands.flatMap commandTurns).length) := by
    rw [hagenda, hturns, List.length_cons, List.length_cons, List.length_append, List.length_replicate]
    omega
  obtain ⟨t, hreset, ht, hp⟩ := reset_turns (hagenda.trans hturns) hv hmark
  obtain ⟨u, hbuild, hu, hp', hready⟩ := ht.lutinit_turns hp (Nat.le_add_left _ _)
  obtain ⟨r, hcommands, hrunning, hready', hp'', hlast⟩ := hu.commands_run commands hready hp'
  have hrun : RunsTo s.agenda.length s r commands := by
    rw [hlength]
    exact hreset.trans (hbuild.trans hcommands)
  refine ⟨r, hrun.steps, hrunning.ended hready' hp'' hrun.accepts fun hne => ?_, ⟨hrunning.table, hready'⟩,
    fun i hi => (hlast i hi).rspCount⟩
  obtain ⟨-, hheld, -⟩ := (hlast _ (List.getLast?_eq_some_getLast hne)).of_zero
  exact hheld

end Sys2Proof.Machine
end
